-- ==== Sys2Proof/Word.lean ====
section
/-! DEFINITION. The word types of the xgbc CORE: bytes, 16-bit words, 32-bit cycle counts, the 48-bit
command word (R5, R10, R80) and the 76-byte I/O window (R37). -/

namespace Sys2Proof

/-- An 8-bit register or memory byte (`REG_W`, R5). -/
abbrev Byte := BitVec 8

/-- A 16-bit pair, `pc`, `sp` or address (`PAIR_W`, `ADDR_W`, R5). -/
abbrev Word := BitVec 16

/-- The cycle count a command carries (`CYC_W`, R5). -/
abbrev Cycles := BitVec 32

/-- A command word (`CMD_W`, R80). -/
abbrev Command := BitVec 48

/-- The I/O window `Win`, `IO_SIZE` = 76 bytes (R37). -/
abbrev Window := Vector Byte 76

/-- An offset into the I/O window, `0 .. IO_SIZE - 1` (R13). -/
abbrev Offset := Fin 76

end Sys2Proof
end

