-- ==== Sys2Proof/Syntax.lean ====
section
/-! DEFINITION. The syntax of the commands: the closed sets of register, pair and flag ids (R20, R23, R30), the
contract-violation codes a command can raise (60_exceptions.md R251), and one constructor of `Instr` for each of the
51 rows of the op map (30_encoding.md R87). -/

namespace Sys2Proof

/-- `Reg8` (R20), in id order 0 to 7. -/
inductive Reg8 where
  | a | b | c | d | e | h | l | f
  deriving DecidableEq, Repr, Inhabited

/-- `Reg16` (R23), in id order 0 to 4. -/
inductive Reg16 where
  | bc | de | hl | pc | sp
  deriving DecidableEq, Repr, Inhabited

/-- `Pair` (R23): the subset of `Reg16` with ids 0 to 2. -/
inductive Pair where
  | bc | de | hl
  deriving DecidableEq, Repr, Inhabited

/-- `FlagId` (R30), in id order 0 to 3. -/
inductive FlagId where
  | z | n | h | c
  deriving DecidableEq, Repr, Inhabited

/-- The codes of a contract violation (R251), in code order 1 to 7. -/
inductive Violation where
  /-- `OP` is not in the op map (R89). -/
  | badOp
  /-- A field the format does not use is non-zero (R81). -/
  | reservedNonzero
  /-- An 8-bit register field holds 8 to 15 (R86). -/
  | badReg8Id
  /-- A `q` field holds 5 to 15, or a `p` field 3 to 15 (R86). -/
  | badReg16Id
  /-- A flag field holds 4 to 15 (R86). -/
  | badFlagId
  /-- IORD, IOWR or IODW with an address outside the window (R223). -/
  | ioAddrRange
  /-- IOSYNC would carry a finite `Acc` past its last value (U6). -/
  | accOverflow
  deriving DecidableEq, Repr

/-- The commands (R87). -/
inductive Instr where
  -- register file (R110 to R116)
  | rd8 (r : Reg8)
  | wr8 (r : Reg8) (imm : Byte)
  | rd16 (q : Reg16)
  | wr16 (q : Reg16) (imm : Word)
  | tstf (f : FlagId)
  | setf (f : FlagId)
  | clrf (f : FlagId)
  -- ALU, value form (R140 to R146)
  | add (imm : Byte)
  | adc (imm : Byte)
  | sub (imm : Byte)
  | sbc (imm : Byte)
  | and (imm : Byte)
  | or (imm : Byte)
  | xor (imm : Byte)
  -- ALU, register form (R147 to R153)
  | addr (r : Reg8)
  | adcr (r : Reg8)
  | subr (r : Reg8)
  | sbcr (r : Reg8)
  | andr (r : Reg8)
  | orr (r : Reg8)
  | xorr (r : Reg8)
  -- ALU, indirect form (R154 to R160)
  | addm (p : Pair)
  | adcm (p : Pair)
  | subm (p : Pair)
  | sbcm (p : Pair)
  | andm (p : Pair)
  | orm (p : Pair)
  | xorm (p : Pair)
  -- loads and stores (R170 to R177)
  | mov (rd rs : Reg8)
  | ldp (r : Reg8) (p : Pair)
  | stp (p : Pair) (r : Reg8)
  | lda (r : Reg8) (a16 : Word)
  | sta (a16 : Word) (r : Reg8)
  | ldi (r : Reg8)
  | sti (r : Reg8)
  | ld16 (p : Pair) (imm : Word)
  -- 16-bit increment and decrement (R190, R191)
  | inc16 (p : Pair)
  | dec16 (p : Pair)
  -- stack (R195, R196)
  | push (p : Pair)
  | pop (p : Pair)
  -- memory port (R205 to R208)
  | mrd8 (a16 : Word)
  | mwr8 (a16 : Word) (imm : Byte)
  | mrd16 (a16 : Word)
  | mwr16 (a16 : Word) (imm : Word)
  -- I/O coordinator (R215 to R220, R222)
  | ioreset
  | iotick (cyc : Cycles)
  | iosync (cyc : Cycles)
  | iodrain
  | iord (a16 : Word)
  | iowr (a16 : Word) (imm : Byte)
  | iodw (a16 : Word) (imm : Byte)
  deriving DecidableEq, Repr

end Sys2Proof
end

