-- ==== Sys2Proof/Decode.lean ====
section
/-! DEFINITION. The command decoder and encoder (30_encoding.md). `decode` is total on 48-bit words and rejects by the code
of the first failing check of R88; `encode` writes the word of a command from the same op map (R87). -/

namespace Sys2Proof

/-! ### Fields of a command word (R80) -/

/-- `OP` = `cmd[47:40]`. -/
def opField (w : Command) : BitVec 8 := w.extractLsb' 40 8

/-- `A` = `cmd[39:36]`. -/
def aField (w : Command) : BitVec 4 := w.extractLsb' 36 4

/-- `B` = `cmd[35:32]`. -/
def bField (w : Command) : BitVec 4 := w.extractLsb' 32 4

/-- `W` = `cmd[31:16]`, an address. -/
def wField (w : Command) : Word := w.extractLsb' 16 16

/-- `X` = `cmd[15:0]`, a data value. -/
def xField (w : Command) : Word := w.extractLsb' 0 16

/-- `X[15:8]`. -/
def xHighField (w : Command) : Byte := w.extractLsb' 8 8

/-- `X[7:0]`, an 8-bit value. -/
def xLowField (w : Command) : Byte := w.extractLsb' 0 8

/-- `CYC` = `cmd[31:0]`, a cycle count. -/
def cycField (w : Command) : Cycles := w.extractLsb' 0 32

/-! ### Formats (R82) -/

/-- The sixteen formats of R82. -/
inductive Format where
  | n | r | q | p | f | rx | qx | px | x8 | rr | rp | rw | w | wx8 | wx16 | cy
  deriving DecidableEq, Repr

/-- Which fields of the word a format uses; the others must be zero (R81). -/
structure FieldUse where
  a     : Bool
  b     : Bool
  w     : Bool
  xHigh : Bool
  xLow  : Bool
  deriving DecidableEq, Repr

/-- The table of R82, column by column: `A`, `B`, `W`, `X[15:8]`, `X[7:0]`. -/
def Format.fields : Format → FieldUse
  | .n => ⟨false, false, false, false, false⟩
  | .r => ⟨true, false, false, false, false⟩
  | .q => ⟨true, false, false, false, false⟩
  | .p => ⟨true, false, false, false, false⟩
  | .f => ⟨true, false, false, false, false⟩
  | .rx => ⟨true, false, false, false, true⟩
  | .qx => ⟨true, false, false, true, true⟩
  | .px => ⟨true, false, false, true, true⟩
  | .x8 => ⟨false, false, false, false, true⟩
  | .rr => ⟨true, true, false, false, false⟩
  | .rp => ⟨true, true, false, false, false⟩
  | .rw => ⟨true, false, true, false, false⟩
  | .w => ⟨false, false, true, false, false⟩
  | .wx8 => ⟨false, false, true, false, true⟩
  | .wx16 => ⟨false, false, true, true, true⟩
  | .cy => ⟨false, false, true, true, true⟩

/-- The fixed-bit mask of R82, as its last column prints it. -/
def Format.mask : Format → Command
  | .n => 0xFFFFFFFFFFFF#48
  | .r => 0xFF0FFFFFFFFF#48
  | .q => 0xFF0FFFFFFFFF#48
  | .p => 0xFF0FFFFFFFFF#48
  | .f => 0xFF0FFFFFFFFF#48
  | .rx => 0xFF0FFFFFFF00#48
  | .qx => 0xFF0FFFFF0000#48
  | .px => 0xFF0FFFFF0000#48
  | .x8 => 0xFFFFFFFFFF00#48
  | .rr => 0xFF00FFFFFFFF#48
  | .rp => 0xFF00FFFFFFFF#48
  | .rw => 0xFF0F0000FFFF#48
  | .w => 0xFFFF0000FFFF#48
  | .wx8 => 0xFFFF0000FF00#48
  | .wx16 => 0xFFFF00000000#48
  | .cy => 0xFFFF00000000#48

/-- Every field the format does not use is zero (R81). -/
def Format.unusedZero (fmt : Format) (w : Command) : Bool :=
  (fmt.fields.a || aField w == 0) && (fmt.fields.b || bField w == 0) && (fmt.fields.w || wField w == 0) &&
    (fmt.fields.xHigh || xHighField w == 0) && (fmt.fields.xLow || xLowField w == 0)

/-! ### Ids (R20, R23, R30, R86) -/

/-- The id number of an 8-bit register (R20). -/
def Reg8.id : Reg8 → BitVec 4
  | .a => 0 | .b => 1 | .c => 2 | .d => 3 | .e => 4 | .h => 5 | .l => 6 | .f => 7

/-- The id number of a 16-bit register (R23). -/
def Reg16.id : Reg16 → BitVec 4
  | .bc => 0 | .de => 1 | .hl => 2 | .pc => 3 | .sp => 4

/-- The id number of a pair (R23). -/
def Pair.id : Pair → BitVec 4
  | .bc => 0 | .de => 1 | .hl => 2

/-- The id number of a flag (R30). -/
def FlagId.id : FlagId → BitVec 4
  | .z => 0 | .n => 1 | .h => 2 | .c => 3

/-- An 8-bit register field is valid when its value is 0 to 7 (R86). -/
def reg8OfId (v : BitVec 4) : Except Violation Reg8 :=
  match v.toNat with
  | 0 => .ok .a | 1 => .ok .b | 2 => .ok .c | 3 => .ok .d
  | 4 => .ok .e | 5 => .ok .h | 6 => .ok .l | 7 => .ok .f
  | _ => .error .badReg8Id

/-- A `q` field is valid when its value is 0 to 4 (R86). -/
def reg16OfId (v : BitVec 4) : Except Violation Reg16 :=
  match v.toNat with
  | 0 => .ok .bc | 1 => .ok .de | 2 => .ok .hl | 3 => .ok .pc | 4 => .ok .sp
  | _ => .error .badReg16Id

/-- A `p` field is valid when its value is 0 to 2 (R86). -/
def pairOfId (v : BitVec 4) : Except Violation Pair :=
  match v.toNat with
  | 0 => .ok .bc | 1 => .ok .de | 2 => .ok .hl
  | _ => .error .badReg16Id

/-- A flag field is valid when its value is 0 to 3 (R86). -/
def flagOfId (v : BitVec 4) : Except Violation FlagId :=
  match v.toNat with
  | 0 => .ok .z | 1 => .ok .n | 2 => .ok .h | 3 => .ok .c
  | _ => .error .badFlagId

/-! ### Operand readers, one for each operand shape; the `A` id is checked before the `B` id (R88) -/

def readNone (i : Instr) (_ : Command) : Except Violation Instr := .ok i

def readReg8 (mk : Reg8 → Instr) (w : Command) : Except Violation Instr :=
  (reg8OfId (aField w)).map mk

def readReg16 (mk : Reg16 → Instr) (w : Command) : Except Violation Instr :=
  (reg16OfId (aField w)).map mk

def readPair (mk : Pair → Instr) (w : Command) : Except Violation Instr :=
  (pairOfId (aField w)).map mk

def readFlag (mk : FlagId → Instr) (w : Command) : Except Violation Instr :=
  (flagOfId (aField w)).map mk

def readReg8Imm8 (mk : Reg8 → Byte → Instr) (w : Command) : Except Violation Instr :=
  (reg8OfId (aField w)).map (mk · (xLowField w))

def readReg16Imm16 (mk : Reg16 → Word → Instr) (w : Command) : Except Violation Instr :=
  (reg16OfId (aField w)).map (mk · (xField w))

def readPairImm16 (mk : Pair → Word → Instr) (w : Command) : Except Violation Instr :=
  (pairOfId (aField w)).map (mk · (xField w))

def readImm8 (mk : Byte → Instr) (w : Command) : Except Violation Instr := .ok (mk (xLowField w))

def readReg8Reg8 (mk : Reg8 → Reg8 → Instr) (w : Command) : Except Violation Instr :=
  (reg8OfId (aField w)).bind fun rd => (reg8OfId (bField w)).map (mk rd)

def readReg8Pair (mk : Reg8 → Pair → Instr) (w : Command) : Except Violation Instr :=
  (reg8OfId (aField w)).bind fun r => (pairOfId (bField w)).map (mk r)

def readReg8Addr (mk : Reg8 → Word → Instr) (w : Command) : Except Violation Instr :=
  (reg8OfId (aField w)).map (mk · (wField w))

def readAddr (mk : Word → Instr) (w : Command) : Except Violation Instr := .ok (mk (wField w))

def readAddrImm8 (mk : Word → Byte → Instr) (w : Command) : Except Violation Instr :=
  .ok (mk (wField w) (xLowField w))

def readAddrImm16 (mk : Word → Word → Instr) (w : Command) : Except Violation Instr :=
  .ok (mk (wField w) (xField w))

def readCycles (mk : Cycles → Instr) (w : Command) : Except Violation Instr := .ok (mk (cycField w))

/-! ### The op map (R87) -/

/-- A row of the op map: its `OP`, its format, and how its operands are read. -/
structure OpRow where
  op   : BitVec 8
  fmt  : Format
  make : Command → Except Violation Instr

/-- Register-file rows (R110 to R116). -/
def regFileRows : List OpRow :=
  [ ⟨0x01#8, .r, readReg8 .rd8⟩,
    ⟨0x02#8, .rx, readReg8Imm8 .wr8⟩,
    ⟨0x03#8, .q, readReg16 .rd16⟩,
    ⟨0x04#8, .qx, readReg16Imm16 .wr16⟩,
    ⟨0x05#8, .f, readFlag .tstf⟩,
    ⟨0x06#8, .f, readFlag .setf⟩,
    ⟨0x07#8, .f, readFlag .clrf⟩ ]

/-- ALU rows, value form (R140 to R146). -/
def aluValueRows : List OpRow :=
  [ ⟨0x10#8, .x8, readImm8 .add⟩,
    ⟨0x11#8, .x8, readImm8 .adc⟩,
    ⟨0x12#8, .x8, readImm8 .sub⟩,
    ⟨0x13#8, .x8, readImm8 .sbc⟩,
    ⟨0x14#8, .x8, readImm8 .and⟩,
    ⟨0x15#8, .x8, readImm8 .or⟩,
    ⟨0x16#8, .x8, readImm8 .xor⟩ ]

/-- ALU rows, register form (R147 to R153). -/
def aluRegisterRows : List OpRow :=
  [ ⟨0x20#8, .r, readReg8 .addr⟩,
    ⟨0x21#8, .r, readReg8 .adcr⟩,
    ⟨0x22#8, .r, readReg8 .subr⟩,
    ⟨0x23#8, .r, readReg8 .sbcr⟩,
    ⟨0x24#8, .r, readReg8 .andr⟩,
    ⟨0x25#8, .r, readReg8 .orr⟩,
    ⟨0x26#8, .r, readReg8 .xorr⟩ ]

/-- ALU rows, indirect form (R154 to R160). -/
def aluIndirectRows : List OpRow :=
  [ ⟨0x30#8, .p, readPair .addm⟩,
    ⟨0x31#8, .p, readPair .adcm⟩,
    ⟨0x32#8, .p, readPair .subm⟩,
    ⟨0x33#8, .p, readPair .sbcm⟩,
    ⟨0x34#8, .p, readPair .andm⟩,
    ⟨0x35#8, .p, readPair .orm⟩,
    ⟨0x36#8, .p, readPair .xorm⟩ ]

/-- Load and store rows (R170 to R177). STP holds its register in `A` and its pair in `B`, as LDP does (R87). -/
def loadStoreRows : List OpRow :=
  [ ⟨0x40#8, .rr, readReg8Reg8 .mov⟩,
    ⟨0x41#8, .rp, readReg8Pair .ldp⟩,
    ⟨0x42#8, .rp, readReg8Pair (fun r p => .stp p r)⟩,
    ⟨0x43#8, .rw, readReg8Addr .lda⟩,
    ⟨0x44#8, .rw, readReg8Addr (fun r a => .sta a r)⟩,
    ⟨0x45#8, .r, readReg8 .ldi⟩,
    ⟨0x46#8, .r, readReg8 .sti⟩,
    ⟨0x47#8, .px, readPairImm16 .ld16⟩ ]

/-- 16-bit increment and decrement rows (R190, R191). -/
def incDecRows : List OpRow :=
  [ ⟨0x50#8, .p, readPair .inc16⟩,
    ⟨0x51#8, .p, readPair .dec16⟩ ]

/-- Stack rows (R195, R196). -/
def stackRows : List OpRow :=
  [ ⟨0x60#8, .p, readPair .push⟩,
    ⟨0x61#8, .p, readPair .pop⟩ ]

/-- Memory-port rows (R205 to R208). -/
def memPortRows : List OpRow :=
  [ ⟨0x70#8, .w, readAddr .mrd8⟩,
    ⟨0x71#8, .wx8, readAddrImm8 .mwr8⟩,
    ⟨0x72#8, .w, readAddr .mrd16⟩,
    ⟨0x73#8, .wx16, readAddrImm16 .mwr16⟩ ]

/-- I/O coordinator rows (R215 to R220, R222). -/
def ioRows : List OpRow :=
  [ ⟨0x80#8, .n, readNone .ioreset⟩,
    ⟨0x81#8, .cy, readCycles .iotick⟩,
    ⟨0x82#8, .cy, readCycles .iosync⟩,
    ⟨0x83#8, .n, readNone .iodrain⟩,
    ⟨0x84#8, .w, readAddr .iord⟩,
    ⟨0x85#8, .wx8, readAddrImm8 .iowr⟩,
    ⟨0x86#8, .wx8, readAddrImm8 .iodw⟩ ]

/-- The complete op map, 51 rows (R87). -/
def opMap : List OpRow :=
  regFileRows ++ aluValueRows ++ aluRegisterRows ++ aluIndirectRows ++ loadStoreRows ++ incDecRows ++ stackRows ++ memPortRows ++ ioRows

/-- The row of an `OP` value; none when the value is reserved (R89). -/
def opRow? (op : BitVec 8) : Option OpRow := opMap.find? (fun row => row.op == op)

/-- The decoder: the checks (1) to (3) of R88 in order, each rejecting with its own code. -/
def decode (w : Command) : Except Violation Instr :=
  match opRow? (opField w) with
  | none => .error .badOp
  | some row => if row.fmt.unusedZero w then row.make w else .error .reservedNonzero

/-- The instruction this decoder reads from the `nbits`-bit table word `w`; every bit above `nbits` is zero. -/
def decodeTableWord (nbits w : Nat) : Option Instr :=
  let word := w % 2 ^ nbits
  if word < 2 ^ 48 then
    match decode (BitVec.ofNat 48 word) with
    | .ok i => some i
    | .error _ => none
  else none

/-! ### The encoder (R80, R82, R87) -/

/-- The word with the five fields of R80. -/
def pack (op : BitVec 8) (a b : BitVec 4) (w x : BitVec 16) : Command := op ++ a ++ b ++ w ++ x

/-- An 8-bit value in the field `X`, `X[15:8]` zero. -/
def low8 (imm : Byte) : BitVec 16 := 0#8 ++ imm

/-- The half of a cycle count that overlays `W`. -/
def cycHigh (cyc : Cycles) : BitVec 16 := cyc.extractLsb' 16 16

/-- The half of a cycle count that overlays `X`. -/
def cycLow (cyc : Cycles) : BitVec 16 := cyc.extractLsb' 0 16

/-- The word of a command (R82, R87). -/
def encode : Instr → Command
  | .rd8 r => pack 0x01#8 r.id 0#4 0#16 0#16
  | .wr8 r imm => pack 0x02#8 r.id 0#4 0#16 (low8 imm)
  | .rd16 q => pack 0x03#8 q.id 0#4 0#16 0#16
  | .wr16 q imm => pack 0x04#8 q.id 0#4 0#16 imm
  | .tstf f => pack 0x05#8 f.id 0#4 0#16 0#16
  | .setf f => pack 0x06#8 f.id 0#4 0#16 0#16
  | .clrf f => pack 0x07#8 f.id 0#4 0#16 0#16
  | .add imm => pack 0x10#8 0#4 0#4 0#16 (low8 imm)
  | .adc imm => pack 0x11#8 0#4 0#4 0#16 (low8 imm)
  | .sub imm => pack 0x12#8 0#4 0#4 0#16 (low8 imm)
  | .sbc imm => pack 0x13#8 0#4 0#4 0#16 (low8 imm)
  | .and imm => pack 0x14#8 0#4 0#4 0#16 (low8 imm)
  | .or imm => pack 0x15#8 0#4 0#4 0#16 (low8 imm)
  | .xor imm => pack 0x16#8 0#4 0#4 0#16 (low8 imm)
  | .addr r => pack 0x20#8 r.id 0#4 0#16 0#16
  | .adcr r => pack 0x21#8 r.id 0#4 0#16 0#16
  | .subr r => pack 0x22#8 r.id 0#4 0#16 0#16
  | .sbcr r => pack 0x23#8 r.id 0#4 0#16 0#16
  | .andr r => pack 0x24#8 r.id 0#4 0#16 0#16
  | .orr r => pack 0x25#8 r.id 0#4 0#16 0#16
  | .xorr r => pack 0x26#8 r.id 0#4 0#16 0#16
  | .addm p => pack 0x30#8 p.id 0#4 0#16 0#16
  | .adcm p => pack 0x31#8 p.id 0#4 0#16 0#16
  | .subm p => pack 0x32#8 p.id 0#4 0#16 0#16
  | .sbcm p => pack 0x33#8 p.id 0#4 0#16 0#16
  | .andm p => pack 0x34#8 p.id 0#4 0#16 0#16
  | .orm p => pack 0x35#8 p.id 0#4 0#16 0#16
  | .xorm p => pack 0x36#8 p.id 0#4 0#16 0#16
  | .mov rd rs => pack 0x40#8 rd.id rs.id 0#16 0#16
  | .ldp r p => pack 0x41#8 r.id p.id 0#16 0#16
  | .stp p r => pack 0x42#8 r.id p.id 0#16 0#16
  | .lda r a16 => pack 0x43#8 r.id 0#4 a16 0#16
  | .sta a16 r => pack 0x44#8 r.id 0#4 a16 0#16
  | .ldi r => pack 0x45#8 r.id 0#4 0#16 0#16
  | .sti r => pack 0x46#8 r.id 0#4 0#16 0#16
  | .ld16 p imm => pack 0x47#8 p.id 0#4 0#16 imm
  | .inc16 p => pack 0x50#8 p.id 0#4 0#16 0#16
  | .dec16 p => pack 0x51#8 p.id 0#4 0#16 0#16
  | .push p => pack 0x60#8 p.id 0#4 0#16 0#16
  | .pop p => pack 0x61#8 p.id 0#4 0#16 0#16
  | .mrd8 a16 => pack 0x70#8 0#4 0#4 a16 0#16
  | .mwr8 a16 imm => pack 0x71#8 0#4 0#4 a16 (low8 imm)
  | .mrd16 a16 => pack 0x72#8 0#4 0#4 a16 0#16
  | .mwr16 a16 imm => pack 0x73#8 0#4 0#4 a16 imm
  | .ioreset => pack 0x80#8 0#4 0#4 0#16 0#16
  | .iotick cyc => pack 0x81#8 0#4 0#4 (cycHigh cyc) (cycLow cyc)
  | .iosync cyc => pack 0x82#8 0#4 0#4 (cycHigh cyc) (cycLow cyc)
  | .iodrain => pack 0x83#8 0#4 0#4 0#16 0#16
  | .iord a16 => pack 0x84#8 0#4 0#4 a16 0#16
  | .iowr a16 imm => pack 0x85#8 0#4 0#4 a16 (low8 imm)
  | .iodw a16 imm => pack 0x86#8 0#4 0#4 a16 (low8 imm)

end Sys2Proof
end

