-- ==== Sys2Proof/Config.lean ====
section
/-! DEFINITION. The parameters of the hardware (00_scope.md R5): the fixed address range of the I/O window, the
instance parameters, the peripheral contract, and the free values the spec leaves open. -/

namespace Sys2Proof

/-- `IO_BASE`, the first address of the I/O window (R5). -/
def Config.ioBase : Nat := 0xFF00

/-- `IO_LAST`, the last address of the I/O window (R5). -/
def Config.ioLast : Nat := 0xFF4B

/-- `CARRY_MODE` (R5, D9): how adc and sbc use the carry-in. -/
inductive CarryMode where
  | fold
  | true3
  deriving DecidableEq, Repr, Inhabited

/-- A peripheral's private state (R41, R234). The spec lets each peripheral choose its type; the model holds
it as a list of numbers (log 7). -/
abbrev PState := List Nat

/-- The outside input `ext` a hook samples (R235), as a number that the hook interprets (log 8). -/
abbrev Ext := Nat

/-- The four hooks of the peripheral contract (R235). They are total functions of their own state, the window and
their arguments, and so can reach nothing else (R241, R242). -/
structure PeripheralHooks where
  reset   : PState → Window → Ext → PState × Window
  tick    : PState → Window → Cycles → Ext → PState × Window
  onRead  : PState → Window → Word → Ext → PState × Window
  onWrite : PState → Window → Word → Byte → Ext → PState × Window
  deriving Inhabited

/-- One entry of `PERIPHERALS` (R234, R236) as plain data: which device it is (`kind` selects its hooks, log 6), the
absolute addresses it claims, and the state its first `reset` hook receives. -/
structure PeripheralDecl where
  kind   : Nat
  claims : List Word
  init   : PState
  deriving DecidableEq, Repr

/-- The private state of an external memory other than the flat RAM (R42: "whatever state its implementation has"), as a
list of numbers that its two operations interpret (log 7). -/
abbrev ExtMemState := List Nat

/-- The interface `EXTMEM` (R56): the two operations a memory supplies over its own state. A read may change that state:
only the flat RAM is said to have no side effect. -/
structure ExtMemOps where
  read  : ExtMemState → Word → Byte × ExtMemState
  write : ExtMemState → Word → Byte → ExtMemState
  deriving Inhabited

/-- Which external memory stands behind the addresses outside the window: the parameter `EXTMEM` (R5, R56; log 9). -/
inductive ExtMem where
  /-- The default: flat RAM, with the contents `EXTMEM_INIT` at power-on. -/
  | flatRam
  /-- Another memory (read-only regions, banks, mapped registers); `kind` selects its operations. -/
  | other (kind : Nat)
  deriving DecidableEq, Repr

/-- The parameters of one instance (R5), fixed at construction, with the ownership table computed from
`peripherals` (R237, R38). Held as data beside the state (log 5); no step changes it. -/
structure Parameters where
  /-- `RESET_VECTOR` (D14). -/
  resetVector : Word
  /-- `CARRY_MODE` (D9). -/
  carryMode   : CarryMode
  /-- `ACC_W` (D18, U6): `none` is the unbounded accumulator, `some w` a finite one. -/
  accWidth    : Option Nat
  /-- `EXTMEM` (D13, U10). -/
  extMem      : ExtMem
  /-- `PERIPHERALS` in registration order (R240). -/
  peripherals : List PeripheralDecl
  /-- `Owner` (R38). -/
  owner       : Vector (Option Nat) 76
  deriving DecidableEq, Repr

/-- What lies outside the block and has no value in the spec: the hooks of each kind of peripheral, the sequence of
`ext` samples, the operations of each kind of external memory but the flat RAM, and the flat RAM's contents at power-on. -/
structure Env where
  hooks   : Nat → PeripheralHooks
  ext     : Nat → Ext
  extMems : Nat → ExtMemOps
  extInit : Word → Byte

/-- The hooks of each kind of peripheral: any total functions (U16, log 6). No body. -/
opaque Config.hooks : Nat → PeripheralHooks

/-- The `n`-th sample of the outside input (R235, D32, log 8). No body. -/
opaque Config.extInput : Nat → Ext

/-- The operations of each kind of external memory other than the flat RAM: any total functions (U10, log 9). No body. -/
opaque Config.extMems : Nat → ExtMemOps

/-- `EXTMEM_INIT` (R48, U9, log 10): the power-on contents of the flat RAM. No body. -/
opaque Config.extmemInit : Word → Byte

/-- `RESET_VECTOR` of the instance `State.reset` (R45, U8, log 4). No body. -/
opaque Config.resetVector : Word

/-- The outside of the machine that `step` runs in. -/
def Config.env : Env :=
  { hooks := Config.hooks, ext := Config.extInput, extMems := Config.extMems, extInit := Config.extmemInit }

end Sys2Proof
end

