-- ==== Sys2Proof/Machine/State.lean ====
section
/-! DEFINITION. The state of the machine as plain data (10_state.md), the two ways a step can stop, and the state right
after reset (R45 to R49). -/

namespace Sys2Proof.Machine

/-- A response on the command port (R92). -/
inductive Response where
  /-- `OK` without a value. -/
  | ok
  /-- `OK(value)` of RD8, MRD8, IORD: 8 bits. -/
  | byte (v : Byte)
  /-- `OK(value)` of RD16, MRD16: 16 bits. -/
  | word (v : Word)
  /-- `OK(value)` of TSTF: 1 bit. -/
  | bit (b : Bool)
  /-- `OK(value)` of IODRAIN: a natural number. -/
  | count (n : Nat)
  /-- `FAULT(code)` (R14, R253). -/
  | fault (code : Violation)
  deriving DecidableEq, Repr

/-- What the host can do to the block between two steps (R8, R280; log 1). -/
inductive HostInput where
  /-- Issue one command word. -/
  | cmd (w : Command)
  /-- Assert the reset input `rst`. -/
  | rst
  deriving DecidableEq, Repr

/-- The register file (R20, R23). The pairs and the flags have no storage of their own (R22, R30). -/
structure RegFile where
  a  : Byte
  b  : Byte
  c  : Byte
  d  : Byte
  e  : Byte
  h  : Byte
  l  : Byte
  f  : Byte
  pc : Word
  sp : Word
  deriving DecidableEq, Repr

/-- The flat RAM's contents: the bytes written since power-on, keys strictly rising (`Memory.wf`). A key that is not listed has
no value here; `State.extRead` gives it the free value `EXTMEM_INIT` (log 10). -/
abbrev Memory := List Host.Cell

structure State where
  /-- Registers, `pc`, `sp` and, in F, the flags (R20 to R33, R39). -/
  regs    : RegFile
  /-- The fault latch `Fault` (R36). -/
  fault   : Option Violation
  /-- The cycle accumulator `Acc` (R35). -/
  acc     : Nat
  /-- The I/O window `Win` (R37). -/
  win     : Window
  /-- `Ext` of the default flat RAM (R42, R56). -/
  mem     : Memory
  /-- The private state of another `EXTMEM` (R42, R56; log 9). -/
  memState : ExtMemState
  /-- `P[i].state` for each peripheral, in registration order (R41). -/
  pstates : List PState
  /-- The parameters of the instance and the ownership table `Owner` (R5, R38); constant (log 5). -/
  cfg     : Parameters
  /-- The model's own: what the host has issued and the block has not yet taken, in order (log 1). -/
  inbox   : List HostInput
  /-- The model's own: the response to the last command (log 2). -/
  resp    : Option Response
  /-- The model's own: the number of `ext` samples taken so far (log 8). -/
  extSeq  : Nat
  deriving DecidableEq, Repr

/-- How the construction of an instance fails (R257). No command and no step raises these: a contract violation of
a command is a next state (R253, log 3). -/
inductive Fault where
  /-- Raised by `construct` alone: two claims of one window address (R238). Safe: no instance exists. -/
  | ownershipConflict
  /-- Raised by `construct` alone: a claim of an address outside the window (R239). Safe: no instance exists. -/
  | claimOutOfWindow
  deriving DecidableEq, Repr

/-- Why an instruction has no meaning in the model. -/
inductive Refusal where
  /-- Raised by an arm of `exec` whose instruction has no meaning yet. Safe. No arm does. -/
  | notModelled (mnemonic : String)
  deriving DecidableEq, Repr

/-- The machine right after reset, for the spec's default instance (R5): CARRY_MODE = FOLD, no peripherals, flat RAM,
unbounded `Acc` (R45 to R49). `RESET_VECTOR` is a free value (log 4); `inbox`, `resp` and `extSeq` are the model's own (logs 1,
2, 8). -/
def State.reset : State :=
  { regs := { a := 0, b := 0, c := 0, d := 0, e := 0, h := 0, l := 0, f := 0, pc := Config.resetVector, sp := 0 }
    fault := none
    acc := 0
    win := Vector.replicate 76 0
    mem := []
    memState := []
    pstates := []
    cfg := { resetVector := Config.resetVector, carryMode := .fold, accWidth := none, extMem := .flatRam,
             peripherals := [], owner := Vector.replicate 76 none }
    inbox := []
    resp := none
    extSeq := 0 }

end Sys2Proof.Machine
end

