-- ==== Sys2Proof/Machine/Ops.lean ====
section
/-! DEFINITION. The named operations every meaning is built from: the register accessors (10_state.md), the memory
primitives and their decoder (20_memory.md), the I/O coordinator's primitives (46_io.md), contract violations and reset
(60_exceptions.md, 70_reset_and_hazards.md), and the construction of an instance. -/

namespace Sys2Proof.Machine

/-! ### Bytes and words -/

/-- `v[15:8]`. -/
def highByte (v : Word) : Byte := v.extractLsb' 8 8

/-- `v[7:0]`. -/
def lowByte (v : Word) : Byte := v.extractLsb' 0 8

/-- `{hi, lo}` (R10). -/
def joinBytes (hi lo : Byte) : Word := hi ++ lo

/-! ### The 8-bit registers (R20, R21, R32) -/

/-- `x[r]`. A read of F returns its high nibble over a zero low nibble (R32). -/
def State.readReg8 (s : State) : Reg8 → Byte
  | .a => s.regs.a
  | .b => s.regs.b
  | .c => s.regs.c
  | .d => s.regs.d
  | .e => s.regs.e
  | .h => s.regs.h
  | .l => s.regs.l
  | .f => s.regs.f &&& 0xF0#8

/-- `x[r] <- v`. A write of F discards `v[3:0]` (R32). -/
def State.writeReg8 (s : State) (r : Reg8) (v : Byte) : State :=
  match r with
  | .a => { s with regs := { s.regs with a := v } }
  | .b => { s with regs := { s.regs with b := v } }
  | .c => { s with regs := { s.regs with c := v } }
  | .d => { s with regs := { s.regs with d := v } }
  | .e => { s with regs := { s.regs with e := v } }
  | .h => { s with regs := { s.regs with h := v } }
  | .l => { s with regs := { s.regs with l := v } }
  | .f => { s with regs := { s.regs with f := v &&& 0xF0#8 } }

/-! ### The 16-bit registers (R22 to R24) -/

/-- `pc <- v` (R12). -/
def State.writePc (s : State) (v : Word) : State := { s with regs := { s.regs with pc := v } }

/-- `sp <- v` (R12). -/
def State.writeSp (s : State) (v : Word) : State := { s with regs := { s.regs with sp := v } }

/-- `xw[q]` (R24): a pair's first-named register is its high byte. -/
def State.readReg16 (s : State) : Reg16 → Word
  | .bc => joinBytes (s.readReg8 .b) (s.readReg8 .c)
  | .de => joinBytes (s.readReg8 .d) (s.readReg8 .e)
  | .hl => joinBytes (s.readReg8 .h) (s.readReg8 .l)
  | .pc => s.regs.pc
  | .sp => s.regs.sp

/-- `xw[q] <- v` (R24). -/
def State.writeReg16 (s : State) (q : Reg16) (v : Word) : State :=
  match q with
  | .bc => (s.writeReg8 .b (highByte v)).writeReg8 .c (lowByte v)
  | .de => (s.writeReg8 .d (highByte v)).writeReg8 .e (lowByte v)
  | .hl => (s.writeReg8 .h (highByte v)).writeReg8 .l (lowByte v)
  | .pc => s.writePc v
  | .sp => s.writeSp v

/-- A pair as a 16-bit register (R23). -/
def pairReg : Pair → Reg16
  | .bc => .bc
  | .de => .de
  | .hl => .hl

/-- `xw[p]`, `p` in Pair. -/
def State.readPair (s : State) (p : Pair) : Word := s.readReg16 (pairReg p)

/-- `xw[p] <- v`, `p` in Pair. -/
def State.writePair (s : State) (p : Pair) (v : Word) : State := s.writeReg16 (pairReg p) v

/-! ### The flags (R30, R31) -/

/-- The bit of F that holds a flag (R30). -/
def flagBit : FlagId → Nat
  | .z => 7
  | .n => 6
  | .h => 5
  | .c => 4

/-- The byte with only that bit set. -/
def flagMask (f : FlagId) : Byte := 1#8 <<< flagBit f

/-- `flag[f]` (R31). -/
def State.readFlag (s : State) (f : FlagId) : Bool := (s.readReg8 .f).getLsbD (flagBit f)

/-- `flag[f] <- b`: that one bit of F and no other (R31). -/
def State.writeFlag (s : State) (f : FlagId) (b : Bool) : State :=
  s.writeReg8 .f (if b then s.readReg8 .f ||| flagMask f else s.readReg8 .f &&& ~~~ flagMask f)

/-! ### Responses and contract violations -/

/-- `Resp <- v` (R14). -/
def State.respond (s : State) (v : Response) : State := { s with resp := some v }

/-- The number of a code (R251). -/
def violationCode : Violation → Nat
  | .badOp => 1
  | .reservedNonzero => 2
  | .badReg8Id => 3
  | .badReg16Id => 4
  | .badFlagId => 5
  | .ioAddrRange => 6
  | .accOverflow => 7

/-- `raise ContractViolation(code)` (R14, R253): the latch and the response, nothing else. There is no return from it
(R256); the way out is `State.assertRst`. -/
def State.raiseViolation (s : State) (code : Violation) : State :=
  ({ s with fault := some code }).respond (.fault code)

/-- What any command does while `Fault` holds `code` (R254). -/
def State.refuseStopped (s : State) (code : Violation) : State := s.respond (.fault code)

/-! ### The command port (R8; log 1) -/

/-- The next thing the host did, and the state with it taken. -/
def State.takeInput (s : State) : Option (HostInput × State) :=
  match s.inbox with
  | [] => none
  | x :: rest => some (x, { s with inbox := rest })

/-! ### External memory (R56; logs 9, 10) -/

/-- The byte listed at a key. -/
def Memory.get? : Memory → Nat → Option Byte
  | [], _ => none
  | (k, v) :: rest, a => if a = k then some v else Memory.get? rest a

/-- Store a byte, keeping the keys strictly rising. -/
def Memory.put : Memory → Nat → Byte → Memory
  | [], a, v => [(a, v)]
  | (k, u) :: rest, a, v =>
    if a < k then (a, v) :: (k, u) :: rest
    else if a = k then (k, v) :: rest
    else (k, u) :: Memory.put rest a v

/-- An address of the space outside the window (R65), as a key. -/
def externalKey (k : Nat) : Bool :=
  decide (k < 65536) && !(decide (Config.ioBase ≤ k) && decide (k ≤ Config.ioLast))

/-- The canonical form: keys strictly rising, and every key an address outside the window (R42). A listed byte is one
written since power-on, so no listed entry stands for what an unlisted key reads as. -/
abbrev Memory.wf (m : Memory) : Prop :=
  m.Pairwise (fun x y => x.1 < y.1) ∧ ∀ x ∈ m, externalKey x.1 = true

/-- `ExtRead(a)` (R56). Of the flat RAM: the byte last written, else the free value `EXTMEM_INIT` (R48), with no side
effect. Of another memory: what its read operation answers and leaves. -/
def State.extRead (E : Env) (s : State) (a : Word) : Byte × State :=
  match s.cfg.extMem with
  | .flatRam => ((s.mem.get? a.toNat).getD (E.extInit a), s)
  | .other k =>
    let r := (E.extMems k).read s.memState a
    (r.1, { s with memState := r.2 })

/-- `ExtWrite(a, v)` (R56). -/
def State.extWrite (E : Env) (s : State) (a : Word) (v : Byte) : State :=
  match s.cfg.extMem with
  | .flatRam => { s with mem := s.mem.put a.toNat v }
  | .other k => { s with memState := (E.extMems k).write s.memState a v }

/-! ### The I/O coordinator's primitives (46_io.md) -/

/-- The address decoder (R55): the window offset `a - IO_BASE` of an address in the window, none for any other. -/
def windowOffset? (a : Word) : Option Offset :=
  if h : 0xFF00 ≤ a.toNat ∧ a.toNat ≤ 0xFF4B then some ⟨a.toNat - 0xFF00, by omega⟩ else none

/-- One hook call `(P[i].state, Win) <- P[i].hook(P[i].state, Win, .., ext)` (R227, R229, R230, R233). It reaches the
peripheral's own state and the window, and nothing else (R241). An index that names no peripheral runs no hook; the
ownership table of an instance holds none (log 13). -/
def State.runHook (E : Env) (s : State) (i : Nat)
    (hook : PeripheralHooks → PState → Window → Ext → PState × Window) : State :=
  match s.cfg.peripherals[i]?, s.pstates[i]? with
  | some p, some st =>
    let r := hook (E.hooks p.kind) st s.win (E.ext s.extSeq)
    { s with pstates := s.pstates.set i r.1, win := r.2, extSeq := s.extSeq + 1 }
  | _, _ => s

/-- `for i = 0 .. len(PERIPHERALS) - 1, in that order` (R221). -/
def State.forEachPeripheral (E : Env) (s : State)
    (hook : PeripheralHooks → PState → Window → Ext → PState × Window) : State :=
  (List.range s.cfg.peripherals.length).foldl (fun t i => t.runHook E i hook) s

/-- `IoRead(a)` at offset `o` (R227): the owner's hook, then the byte. -/
def State.ioRead (E : Env) (s : State) (a : Word) (o : Offset) : Byte × State :=
  match s.cfg.owner[o] with
  | some i =>
    let t := s.runHook E i (fun p st w x => p.onRead st w a x)
    (t.win[o], t)
  | none => (s.win[o], s)

/-- `IoDirectWrite(a, v)` at offset `o` (R228): no hook. -/
def State.ioDirectWrite (s : State) (o : Offset) (v : Byte) : State := { s with win := s.win.set o v }

/-- `IoWrite(a, v)` at offset `o` (R229): the byte, then the owner's hook. -/
def State.ioWrite (E : Env) (s : State) (a : Word) (o : Offset) (v : Byte) : State :=
  match s.cfg.owner[o] with
  | some i => (s.ioDirectWrite o v).runHook E i (fun p st w x => p.onWrite st w a v x)
  | none => s.ioDirectWrite o v

/-- `IoTick(n)` (R230). -/
def State.ioTick (E : Env) (s : State) (n : Cycles) : State :=
  s.forEachPeripheral E (fun p st w x => p.tick st w n x)

/-- `IoSync(n)` (R231). -/
def State.ioSync (E : Env) (s : State) (n : Cycles) : State :=
  ({ s with acc := s.acc + n.toNat }).ioTick E n

/-- Whether `Acc + n` fits the accumulator: always when `ACC_W` is unbounded, else up to `2^ACC_W - 1` (U6). -/
def State.accFits (s : State) (n : Cycles) : Bool :=
  match s.cfg.accWidth with
  | none => true
  | some w => decide (s.acc + n.toNat ≤ 2 ^ w - 1)

/-- `IoDrain()` (R232). -/
def State.ioDrain (s : State) : Nat × State := (s.acc, { s with acc := 0 })

/-- `IoReset()` (R233): the window, then the hooks in list order, then the accumulator. -/
def State.ioReset (E : Env) (s : State) : State :=
  let zeroed := { s with win := Vector.replicate 76 0 }
  let hooked := zeroed.forEachPeripheral E (fun p st w x => p.reset st w x)
  { hooked with acc := 0 }

/-! ### The memory primitives (R57 to R60) -/

/-- `MemRead(addr, 1)` (R57). -/
def State.memRead8 (E : Env) (s : State) (a : Word) : Byte × State :=
  match windowOffset? a with
  | some o => s.ioRead E a o
  | none => s.extRead E a

/-- `MemRead(addr, 2)` (R58): the lower address first, addresses modulo 65536. -/
def State.memRead16 (E : Env) (s : State) (a : Word) : Word × State :=
  let lo := s.memRead8 E a
  let hi := lo.2.memRead8 E (a + 1)
  (joinBytes hi.1 lo.1, hi.2)

/-- `MemWrite(addr, 1, v)` (R59). -/
def State.memWrite8 (E : Env) (s : State) (a : Word) (v : Byte) : State :=
  match windowOffset? a with
  | some o => s.ioWrite E a o v
  | none => s.extWrite E a v

/-- `MemWrite(addr, 2, v)` (R60): the lower address first, addresses modulo 65536. -/
def State.memWrite16 (E : Env) (s : State) (a : Word) (v : Word) : State :=
  (s.memWrite8 E a (lowByte v)).memWrite8 E (a + 1) (highByte v)

/-- The byte standing at an address, looked at without running a hook or keeping a read's side effect: for stating what
a command leaves alone. -/
def State.peek (E : Env) (s : State) (a : Word) : Byte :=
  match windowOffset? a with
  | some o => s.win[o]
  | none => (s.extRead E a).1

/-- The byte at an address is plain memory: an unowned window byte, or a byte of the flat RAM. A read of it has no side
effect, and it holds what was last stored (R64, R67, R244). -/
def State.plainAt (s : State) (a : Word) : Bool :=
  match windowOffset? a with
  | some o => s.cfg.owner[o] == none
  | none => s.cfg.extMem == .flatRam

/-! ### Reset (R280) -/

/-- Step (1) of R280: every 8-bit register and `sp` zero, `pc` at `RESET_VECTOR`. -/
def State.resetRegisters (s : State) : State :=
  { s with regs := { a := 0, b := 0, c := 0, d := 0, e := 0, h := 0, l := 0, f := 0,
                     pc := s.cfg.resetVector, sp := 0 } }

/-- The reset input `rst` (R280): registers, coordinator, latch, in that order. External memory is untouched (R48).
The response port shows no response (log 2). -/
def State.assertRst (E : Env) (s : State) : State :=
  { s.resetRegisters.ioReset E with fault := none, resp := none }

/-! ### Construction of an instance (R237 to R239) -/

/-- Peripheral `i` claims each address of a list (R237), or the construction fails (R238, R239). -/
def claimAll (i : Nat) : List Word → Vector (Option Nat) 76 → Except Fault (Vector (Option Nat) 76)
  | [], t => .ok t
  | a :: rest, t =>
    match windowOffset? a with
    | none => .error .claimOutOfWindow
    | some o =>
      match t[o] with
      | some _ => .error .ownershipConflict
      | none => claimAll i rest (t.set o (some i))

/-- Register the peripherals of a list in order, the first of them with index `i` (R237, R240). -/
def registerAll (i : Nat) : List PeripheralDecl → Vector (Option Nat) 76 → Except Fault (Vector (Option Nat) 76)
  | [], t => .ok t
  | p :: rest, t =>
    match claimAll i p.claims t with
    | .error e => .error e
    | .ok t' => registerAll (i + 1) rest t'

/-- The ownership table of a list of peripherals (R38, R237). -/
def ownerTable (ps : List PeripheralDecl) : Except Fault (Vector (Option Nat) 76) :=
  registerAll 0 ps (Vector.replicate 76 none)

/-- Build an instance and reset it (R283, R284): the first `reset` hook of each peripheral receives its `init`. `mem` is
what the host has placed in the flat RAM before the run (D32), `memState` the state of another `EXTMEM`. A configuration
error builds no instance (R257). -/
def construct (E : Env) (resetVector : Word) (carryMode : CarryMode) (accWidth : Option Nat) (extMem : ExtMem)
    (ps : List PeripheralDecl) (mem : Memory) (memState : ExtMemState) : Host.Outcome State Fault Refusal :=
  match ownerTable ps with
  | .error e => .fault e
  | .ok owner =>
    .next (State.assertRst E
      { State.reset with
        mem := mem
        memState := memState
        pstates := ps.map (·.init)
        cfg := { resetVector := resetVector, carryMode := carryMode, accWidth := accWidth, extMem := extMem,
                 peripherals := ps, owner := owner } })

end Sys2Proof.Machine
end

