-- ==== Sys2Proof/Machine/Flags.lean ====
section
/-! DEFINITION. The seven core functions of the ALU and their flag computations (41_alu.md R130 to R139). -/

namespace Sys2Proof.Machine

/-- The result byte and the four flags of an ALU function. -/
structure AluResult where
  value : Byte
  z : Bool
  n : Bool
  h : Bool
  c : Bool
  deriving DecidableEq, Repr

/-- `n & m` for an integer `n` and `m < 2^16`, in the two's-complement reading of R11. -/
def maskInt (n : Int) (m : Nat) : Nat := (n % 65536).toNat &&& m

/-- The sum and flags of `add(v)` (R131). -/
def addResult (a : Byte) (v : Nat) : AluResult :=
  let result := a.toNat + v
  { value := BitVec.ofNat 8 (result &&& 0xFF)
    z := (result &&& 0xFF) == 0
    n := false
    h := decide ((a.toNat &&& 0xF) + (v &&& 0xF) > 0xF)
    c := decide ((a.toNat &&& 0xFF) + (v &&& 0xFF) > 0xFF) }

/-- The difference and flags of `sub(v)` (R132): H and C are set on a borrow (90_conflicts.md C1). -/
def subResult (a : Byte) (v : Nat) : AluResult :=
  let result : Int := (a.toNat : Int) - (v : Int)
  { value := BitVec.ofNat 8 (maskInt result 0xFF)
    z := maskInt result 0xFF == 0
    n := true
    h := maskInt (((a.toNat &&& 0xF : Nat) : Int) - ((v &&& 0xF : Nat) : Int)) 0x10 != 0
    c := maskInt (((a.toNat &&& 0xFF : Nat) : Int) - ((v &&& 0xFF : Nat) : Int)) 0x100 != 0 }

/-- `adc(v)` in TRUE3 (R135; log 16). -/
def adcTrue3Result (a : Byte) (v cin : Nat) : AluResult :=
  let result := a.toNat + v + cin
  { value := BitVec.ofNat 8 (result &&& 0xFF)
    z := (result &&& 0xFF) == 0
    n := false
    h := decide ((a.toNat &&& 0xF) + (v &&& 0xF) + cin > 0xF)
    c := decide (result > 0xFF) }

/-- `sbc(v)` in TRUE3 (R137; log 16). -/
def sbcTrue3Result (a : Byte) (v cin : Nat) : AluResult :=
  let result : Int := (a.toNat : Int) - (v : Int) - (cin : Int)
  { value := BitVec.ofNat 8 (maskInt result 0xFF)
    z := maskInt result 0xFF == 0
    n := true
    h := decide (((a.toNat &&& 0xF : Nat) : Int) - ((v &&& 0xF : Nat) : Int) - (cin : Int) < 0)
    c := decide (result < 0) }

/-- `adc(v)` by `CARRY_MODE` (R134, R135). -/
def adcResult (mode : CarryMode) (a : Byte) (v cin : Nat) : AluResult :=
  match mode with
  | .fold => addResult a (v + cin)
  | .true3 => adcTrue3Result a v cin

/-- `sbc(v)` by `CARRY_MODE` (R136, R137). -/
def sbcResult (mode : CarryMode) (a : Byte) (v cin : Nat) : AluResult :=
  match mode with
  | .fold => subResult a (v + cin)
  | .true3 => sbcTrue3Result a v cin

/-- A bitwise result (R133): H is 1 for and, 0 for or and xor. -/
def logicResult (result : Byte) (h : Bool) : AluResult :=
  { value := result, z := result == 0, n := false, h := h, c := false }

/-- The byte of F that holds four flags (R30). -/
def packFlags (z n h c : Bool) : Byte :=
  (if z then flagMask .z else 0) ||| (if n then flagMask .n else 0) ||| (if h then flagMask .h else 0) |||
    (if c then flagMask .c else 0)

/-- Write an ALU result: A, which is always written (R139), and all four flags, which are all that F holds (R30). -/
def State.writeAlu (s : State) (r : AluResult) : State :=
  (s.writeReg8 .a r.value).writeReg8 .f (packFlags r.z r.n r.h r.c)

/-- The carry-in, `flag[C]` as 0 or 1 (R134). -/
def State.carryIn (s : State) : Nat := (s.readFlag .c).toNat

/-- Core function `add(v)` (R131). -/
def State.coreAdd (s : State) (v : Byte) : State := s.writeAlu (addResult (s.readReg8 .a) v.toNat)

/-- Core function `adc(v)` (R134, R135). -/
def State.coreAdc (s : State) (v : Byte) : State :=
  s.writeAlu (adcResult s.cfg.carryMode (s.readReg8 .a) v.toNat s.carryIn)

/-- Core function `sub(v)` (R132). -/
def State.coreSub (s : State) (v : Byte) : State := s.writeAlu (subResult (s.readReg8 .a) v.toNat)

/-- Core function `sbc(v)` (R136, R137). -/
def State.coreSbc (s : State) (v : Byte) : State :=
  s.writeAlu (sbcResult s.cfg.carryMode (s.readReg8 .a) v.toNat s.carryIn)

/-- Core function `and(v)` (R133). -/
def State.coreAnd (s : State) (v : Byte) : State := s.writeAlu (logicResult (s.readReg8 .a &&& v) true)

/-- Core function `or(v)` (R133). -/
def State.coreOr (s : State) (v : Byte) : State := s.writeAlu (logicResult (s.readReg8 .a ||| v) false)

/-- Core function `xor(v)` (R133). -/
def State.coreXor (s : State) (v : Byte) : State := s.writeAlu (logicResult (s.readReg8 .a ^^^ v) false)

end Sys2Proof.Machine
end

