-- ==== Sys2Proof/Machine/Operands.lean ====
section
/-! DEFINITION. The operand forms: the three sources of an ALU operand (30_encoding.md R85, 41_alu.md R130) and the
effective addresses of the memory commands (42_load_store.md R178). -/

namespace Sys2Proof.Machine

/-- A command that writes no `Resp` answers `OK` (R14). -/
def State.done (s : State) : Host.Outcome State Fault Refusal := .next (s.respond .ok)

/-- Value form: the operand is `imm8` (R140 to R146). -/
def aluValue (core : State → Byte → State) (imm : Byte) (s : State) : Host.Outcome State Fault Refusal :=
  (core s imm).done

/-- Register form: the operand is `x[r]`, read before A and F are written (R147 to R153). -/
def aluRegister (core : State → Byte → State) (r : Reg8) (s : State) : Host.Outcome State Fault Refusal :=
  (core s (s.readReg8 r)).done

/-- Indirect form: the operand is `MemRead(xw[p], 1)`, resolved before A is read (R130, R154 to R160). -/
def aluIndirect (core : State → Byte → State) (p : Pair) (s : State) : Host.Outcome State Fault Refusal :=
  let operand := s.memRead8 Config.env (s.readPair p)
  (core operand.2 operand.1).done

/-- The immediate address of LDI and STI: `MemRead((pc + 1) mod 65536, 2)` (R84, R52, R29). -/
def State.fetchAddress (E : Env) (s : State) : Word × State := s.memRead16 E (s.regs.pc + 1)

/-- `x[r] <- MemRead(a, 1)` (R171, R173, R175). -/
def State.loadReg8 (E : Env) (s : State) (r : Reg8) (a : Word) : State :=
  let byte := s.memRead8 E a
  byte.2.writeReg8 r byte.1

/-- `MemWrite(a, 1, x[r])` (R172, R174, R176). -/
def State.storeReg8 (E : Env) (s : State) (a : Word) (r : Reg8) : State := s.memWrite8 E a (s.readReg8 r)

/-- The range check of R223, then the command at the window offset of its address. -/
def State.inWindowDo (s : State) (a : Word) (cmd : Offset → State) : Host.Outcome State Fault Refusal :=
  .next (match windowOffset? a with
    | none => s.raiseViolation .ioAddrRange
    | some o => cmd o)

end Sys2Proof.Machine
end

