-- ==== Sys2Proof/Machine/Alu.lean ====
section
/-! DEFINITION. The 21 ALU commands (41_alu.md): seven core functions in value, register and indirect form. -/

namespace Sys2Proof.Machine

/-- ADD imm8 (R140). -/
def execAdd (imm : Byte) (s : State) : Host.Outcome State Fault Refusal :=
  aluValue State.coreAdd imm s

/-- ADC imm8 (R141). -/
def execAdc (imm : Byte) (s : State) : Host.Outcome State Fault Refusal :=
  aluValue State.coreAdc imm s

/-- SUB imm8 (R142). -/
def execSub (imm : Byte) (s : State) : Host.Outcome State Fault Refusal :=
  aluValue State.coreSub imm s

/-- SBC imm8 (R143). -/
def execSbc (imm : Byte) (s : State) : Host.Outcome State Fault Refusal :=
  aluValue State.coreSbc imm s

/-- AND imm8 (R144). -/
def execAnd (imm : Byte) (s : State) : Host.Outcome State Fault Refusal :=
  aluValue State.coreAnd imm s

/-- OR imm8 (R145). -/
def execOr (imm : Byte) (s : State) : Host.Outcome State Fault Refusal :=
  aluValue State.coreOr imm s

/-- XOR imm8 (R146). -/
def execXor (imm : Byte) (s : State) : Host.Outcome State Fault Refusal :=
  aluValue State.coreXor imm s

/-- ADDR r (R147). -/
def execAddr (r : Reg8) (s : State) : Host.Outcome State Fault Refusal :=
  aluRegister State.coreAdd r s

/-- ADCR r (R148). -/
def execAdcr (r : Reg8) (s : State) : Host.Outcome State Fault Refusal :=
  aluRegister State.coreAdc r s

/-- SUBR r (R149). -/
def execSubr (r : Reg8) (s : State) : Host.Outcome State Fault Refusal :=
  aluRegister State.coreSub r s

/-- SBCR r (R150). -/
def execSbcr (r : Reg8) (s : State) : Host.Outcome State Fault Refusal :=
  aluRegister State.coreSbc r s

/-- ANDR r (R151). -/
def execAndr (r : Reg8) (s : State) : Host.Outcome State Fault Refusal :=
  aluRegister State.coreAnd r s

/-- ORR r (R152). -/
def execOrr (r : Reg8) (s : State) : Host.Outcome State Fault Refusal :=
  aluRegister State.coreOr r s

/-- XORR r (R153). -/
def execXorr (r : Reg8) (s : State) : Host.Outcome State Fault Refusal :=
  aluRegister State.coreXor r s

/-- ADDM p (R154). -/
def execAddm (p : Pair) (s : State) : Host.Outcome State Fault Refusal :=
  aluIndirect State.coreAdd p s

/-- ADCM p (R155). -/
def execAdcm (p : Pair) (s : State) : Host.Outcome State Fault Refusal :=
  aluIndirect State.coreAdc p s

/-- SUBM p (R156). -/
def execSubm (p : Pair) (s : State) : Host.Outcome State Fault Refusal :=
  aluIndirect State.coreSub p s

/-- SBCM p (R157). -/
def execSbcm (p : Pair) (s : State) : Host.Outcome State Fault Refusal :=
  aluIndirect State.coreSbc p s

/-- ANDM p (R158). -/
def execAndm (p : Pair) (s : State) : Host.Outcome State Fault Refusal :=
  aluIndirect State.coreAnd p s

/-- ORM p (R159). -/
def execOrm (p : Pair) (s : State) : Host.Outcome State Fault Refusal :=
  aluIndirect State.coreOr p s

/-- XORM p (R160). -/
def execXorm (p : Pair) (s : State) : Host.Outcome State Fault Refusal :=
  aluIndirect State.coreXor p s

end Sys2Proof.Machine
end

