-- ==== Sys2Proof/Machine/IncDec.lean ====
section
/-! DEFINITION. The 16-bit increment and decrement commands (43_incdec16.md). No flag changes. -/

namespace Sys2Proof.Machine

/-- INC16 p (R190). -/
def execInc16 (p : Pair) (s : State) : Host.Outcome State Fault Refusal :=
  (s.writePair p (s.readPair p + 1)).done

/-- DEC16 p (R191). -/
def execDec16 (p : Pair) (s : State) : Host.Outcome State Fault Refusal :=
  (s.writePair p (s.readPair p - 1)).done

end Sys2Proof.Machine
end

