-- ==== Sys2Proof/Machine/IoCoordinator.lean ====
section
/-! DEFINITION. The I/O coordinator commands (46_io.md). -/

namespace Sys2Proof.Machine

/-- IORESET (R215). -/
def execIoreset (s : State) : Host.Outcome State Fault Refusal :=
  (s.ioReset Config.env).done

/-- IOTICK cyc (R216). -/
def execIotick (cyc : Cycles) (s : State) : Host.Outcome State Fault Refusal :=
  (s.ioTick Config.env cyc).done

/-- IOSYNC cyc (R217). A finite accumulator that the sum does not fit raises `AccOverflow` with no effect (U6). -/
def execIosync (cyc : Cycles) (s : State) : Host.Outcome State Fault Refusal :=
  .next (if s.accFits cyc then (s.ioSync Config.env cyc).respond .ok else s.raiseViolation .accOverflow)

/-- IODRAIN (R218). -/
def execIodrain (s : State) : Host.Outcome State Fault Refusal :=
  let drained := s.ioDrain
  .next (drained.2.respond (.count drained.1))

/-- IORD a16 (R219). -/
def execIord (a16 : Word) (s : State) : Host.Outcome State Fault Refusal :=
  s.inWindowDo a16 fun o =>
    let byte := s.ioRead Config.env a16 o
    byte.2.respond (.byte byte.1)

/-- IOWR a16, imm8 (R220). -/
def execIowr (a16 : Word) (imm : Byte) (s : State) : Host.Outcome State Fault Refusal :=
  s.inWindowDo a16 fun o => (s.ioWrite Config.env a16 o imm).respond .ok

/-- IODW a16, imm8 (R222). -/
def execIodw (a16 : Word) (imm : Byte) (s : State) : Host.Outcome State Fault Refusal :=
  s.inWindowDo a16 fun o => (s.ioDirectWrite o imm).respond .ok

end Sys2Proof.Machine
end

