-- ==== Sys2Proof/Machine/LoadStore.lean ====
section
/-! DEFINITION. The load and store commands (42_load_store.md). -/

namespace Sys2Proof.Machine

/-- MOV rd, rs (R170). -/
def execMov (rd rs : Reg8) (s : State) : Host.Outcome State Fault Refusal :=
  (s.writeReg8 rd (s.readReg8 rs)).done

/-- LDP r, p (R171): the pair is read before the register is written. -/
def execLdp (r : Reg8) (p : Pair) (s : State) : Host.Outcome State Fault Refusal :=
  (s.loadReg8 Config.env r (s.readPair p)).done

/-- STP p, r (R172). -/
def execStp (p : Pair) (r : Reg8) (s : State) : Host.Outcome State Fault Refusal :=
  (s.storeReg8 Config.env (s.readPair p) r).done

/-- LDA r, a16 (R173). -/
def execLda (r : Reg8) (a16 : Word) (s : State) : Host.Outcome State Fault Refusal :=
  (s.loadReg8 Config.env r a16).done

/-- STA a16, r (R174). -/
def execSta (a16 : Word) (r : Reg8) (s : State) : Host.Outcome State Fault Refusal :=
  (s.storeReg8 Config.env a16 r).done

/-- LDI r (R175): the address at pc+1, then the byte; `pc` is unchanged (R28). -/
def execLdi (r : Reg8) (s : State) : Host.Outcome State Fault Refusal :=
  let addr := s.fetchAddress Config.env
  (addr.2.loadReg8 Config.env r addr.1).done

/-- STI r (R176): the address at pc+1, then the store; `pc` is unchanged (R28). -/
def execSti (r : Reg8) (s : State) : Host.Outcome State Fault Refusal :=
  let addr := s.fetchAddress Config.env
  (addr.2.storeReg8 Config.env addr.1 r).done

/-- LD16 p, imm16 (R177). -/
def execLd16 (p : Pair) (imm : Word) (s : State) : Host.Outcome State Fault Refusal :=
  (s.writePair p imm).done

end Sys2Proof.Machine
end

