-- ==== Sys2Proof/Machine/MemPort.lean ====
section
/-! DEFINITION. The memory-port commands (45_memport.md). -/

namespace Sys2Proof.Machine

/-- MRD8 a16 (R205). -/
def execMrd8 (a16 : Word) (s : State) : Host.Outcome State Fault Refusal :=
  let byte := s.memRead8 Config.env a16
  .next (byte.2.respond (.byte byte.1))

/-- MWR8 a16, imm8 (R206). -/
def execMwr8 (a16 : Word) (imm : Byte) (s : State) : Host.Outcome State Fault Refusal :=
  (s.memWrite8 Config.env a16 imm).done

/-- MRD16 a16 (R207). -/
def execMrd16 (a16 : Word) (s : State) : Host.Outcome State Fault Refusal :=
  let word := s.memRead16 Config.env a16
  .next (word.2.respond (.word word.1))

/-- MWR16 a16, imm16 (R208). -/
def execMwr16 (a16 : Word) (imm : Word) (s : State) : Host.Outcome State Fault Refusal :=
  (s.memWrite16 Config.env a16 imm).done

end Sys2Proof.Machine
end

