-- ==== Sys2Proof/Machine/RegFile.lean ====
section
/-! DEFINITION. The register-file commands (40_regfile.md). -/

namespace Sys2Proof.Machine

/-- RD8 r (R110). -/
def execRd8 (r : Reg8) (s : State) : Host.Outcome State Fault Refusal :=
  .next (s.respond (.byte (s.readReg8 r)))

/-- WR8 r, imm8 (R111). -/
def execWr8 (r : Reg8) (imm : Byte) (s : State) : Host.Outcome State Fault Refusal :=
  (s.writeReg8 r imm).done

/-- RD16 q (R112). -/
def execRd16 (q : Reg16) (s : State) : Host.Outcome State Fault Refusal :=
  .next (s.respond (.word (s.readReg16 q)))

/-- WR16 q, imm16 (R113). -/
def execWr16 (q : Reg16) (imm : Word) (s : State) : Host.Outcome State Fault Refusal :=
  (s.writeReg16 q imm).done

/-- TSTF f (R114). -/
def execTstf (f : FlagId) (s : State) : Host.Outcome State Fault Refusal :=
  .next (s.respond (.bit (s.readFlag f)))

/-- SETF f (R115). -/
def execSetf (f : FlagId) (s : State) : Host.Outcome State Fault Refusal :=
  (s.writeFlag f true).done

/-- CLRF f (R116). -/
def execClrf (f : FlagId) (s : State) : Host.Outcome State Fault Refusal :=
  (s.writeFlag f false).done

end Sys2Proof.Machine
end

