-- ==== Sys2Proof/Machine/Stack.lean ====
section
/-! DEFINITION. The stack commands (44_stack.md). -/

namespace Sys2Proof.Machine

/-- PUSH p (R195): `sp` first, then the word at the new `sp`. -/
def execPush (p : Pair) (s : State) : Host.Outcome State Fault Refusal :=
  let sp := s.regs.sp - 2
  ((s.writeSp sp).memWrite16 Config.env sp (s.readPair p)).done

/-- POP p (R196): the word at `sp` into the pair, then `sp`. -/
def execPop (p : Pair) (s : State) : Host.Outcome State Fault Refusal :=
  let word := s.memRead16 Config.env s.regs.sp
  ((word.2.writePair p word.1).writeSp (s.regs.sp + 2)).done

end Sys2Proof.Machine
end

