-- ==== Sys2Proof/Machine/Dispatch.lean ====
section
/-! DEFINITION. One arm for each command: its meaning (R87). -/

namespace Sys2Proof.Machine

/-- The execution of a decoded command, step (5) of R88. -/
def exec (i : Instr) (s : State) : Host.Outcome State Fault Refusal :=
  match i with
  -- register file (R110 to R116)
  | .rd8 r => Sys2Proof.Machine.execRd8 r s
  | .wr8 r imm => Sys2Proof.Machine.execWr8 r imm s
  | .rd16 q => Sys2Proof.Machine.execRd16 q s
  | .wr16 q imm => Sys2Proof.Machine.execWr16 q imm s
  | .tstf f => Sys2Proof.Machine.execTstf f s
  | .setf f => Sys2Proof.Machine.execSetf f s
  | .clrf f => Sys2Proof.Machine.execClrf f s
  -- ALU, value form (R140 to R146)
  | .add imm => Sys2Proof.Machine.execAdd imm s
  | .adc imm => Sys2Proof.Machine.execAdc imm s
  | .sub imm => Sys2Proof.Machine.execSub imm s
  | .sbc imm => Sys2Proof.Machine.execSbc imm s
  | .and imm => Sys2Proof.Machine.execAnd imm s
  | .or imm => Sys2Proof.Machine.execOr imm s
  | .xor imm => Sys2Proof.Machine.execXor imm s
  -- ALU, register form (R147 to R153)
  | .addr r => Sys2Proof.Machine.execAddr r s
  | .adcr r => Sys2Proof.Machine.execAdcr r s
  | .subr r => Sys2Proof.Machine.execSubr r s
  | .sbcr r => Sys2Proof.Machine.execSbcr r s
  | .andr r => Sys2Proof.Machine.execAndr r s
  | .orr r => Sys2Proof.Machine.execOrr r s
  | .xorr r => Sys2Proof.Machine.execXorr r s
  -- ALU, indirect form (R154 to R160)
  | .addm p => Sys2Proof.Machine.execAddm p s
  | .adcm p => Sys2Proof.Machine.execAdcm p s
  | .subm p => Sys2Proof.Machine.execSubm p s
  | .sbcm p => Sys2Proof.Machine.execSbcm p s
  | .andm p => Sys2Proof.Machine.execAndm p s
  | .orm p => Sys2Proof.Machine.execOrm p s
  | .xorm p => Sys2Proof.Machine.execXorm p s
  -- loads and stores (R170 to R177)
  | .mov rd rs => Sys2Proof.Machine.execMov rd rs s
  | .ldp r p => Sys2Proof.Machine.execLdp r p s
  | .stp p r => Sys2Proof.Machine.execStp p r s
  | .lda r a16 => Sys2Proof.Machine.execLda r a16 s
  | .sta a16 r => Sys2Proof.Machine.execSta a16 r s
  | .ldi r => Sys2Proof.Machine.execLdi r s
  | .sti r => Sys2Proof.Machine.execSti r s
  | .ld16 p imm => Sys2Proof.Machine.execLd16 p imm s
  -- 16-bit increment and decrement (R190, R191)
  | .inc16 p => Sys2Proof.Machine.execInc16 p s
  | .dec16 p => Sys2Proof.Machine.execDec16 p s
  -- stack (R195, R196)
  | .push p => Sys2Proof.Machine.execPush p s
  | .pop p => Sys2Proof.Machine.execPop p s
  -- memory port (R205 to R208)
  | .mrd8 a16 => Sys2Proof.Machine.execMrd8 a16 s
  | .mwr8 a16 imm => Sys2Proof.Machine.execMwr8 a16 imm s
  | .mrd16 a16 => Sys2Proof.Machine.execMrd16 a16 s
  | .mwr16 a16 imm => Sys2Proof.Machine.execMwr16 a16 imm s
  -- I/O coordinator (R215 to R220, R222)
  | .ioreset => Sys2Proof.Machine.execIoreset s
  | .iotick cyc => Sys2Proof.Machine.execIotick cyc s
  | .iosync cyc => Sys2Proof.Machine.execIosync cyc s
  | .iodrain => Sys2Proof.Machine.execIodrain s
  | .iord a16 => Sys2Proof.Machine.execIord a16 s
  | .iowr a16 imm => Sys2Proof.Machine.execIowr a16 imm s
  | .iodw a16 imm => Sys2Proof.Machine.execIodw a16 imm s

end Sys2Proof.Machine
end

