-- ==== Sys2Proof/Machine/Port.lean ====
section
/-! DEFINITION. The command port: what one command word, and one input of the host, does (R8, R88, R254, R280). -/

namespace Sys2Proof.Machine

/-- A command word at the block: refused while `Fault` is set (R254), else decoded in the order of R88 and executed. -/
def issue (w : Command) (s : State) : Host.Outcome State Fault Refusal :=
  match s.fault with
  | some code => .next (s.refuseStopped code)
  | none =>
    match decode w with
    | .error code => .next (s.raiseViolation code)
    | .ok i => exec i s

/-- Run the host's next input to completion. With nothing issued the block is idle and nothing happens (R265, R272). -/
def runInput (s : State) : Host.Outcome State Fault Refusal :=
  match s.takeInput with
  | none => .next s
  | some (.rst, t) => .next (t.assertRst Config.env)
  | some (.cmd w, t) => issue w t

end Sys2Proof.Machine
end

