-- ==== Sys2Proof/Machine/Step.lean ====
section
/-! DEFINITION. One step of the machine: one input of the host, run to completion (R8). -/

namespace Sys2Proof.Machine

/-- One step. -/
def step (s : State) : Host.Outcome State Fault Refusal := runInput s

/-- `s` with the command word `w` issued next (log 1); bits above `nbits` are zero. -/
def State.withFetchWord (s : State) (nbits w : Nat) : State :=
  { s with inbox := .cmd (BitVec.ofNat 48 (w % 2 ^ nbits)) :: s.inbox }

end Sys2Proof.Machine
end

