-- ==== Sys2Proof/WellFormed.lean ====
section
/-! DEFINITION. Which commands are well formed. The closed id types of `Instr` leave one check: the address of the
three commands that name the coordinator directly must lie in the I/O window (46_io.md R223). -/

namespace Sys2Proof

/-- `IO_BASE <= a <= IO_LAST` (R55, R223). -/
def inWindow (a : Word) : Bool :=
  decide (Config.ioBase ≤ a.toNat) && decide (a.toNat ≤ Config.ioLast)

/-- The check of R223: a command that fails it decodes, and its meaning raises `IoAddrRange` (log 12). -/
def Instr.wellFormed : Instr → Bool
  | .iord a16 => inWindow a16
  | .iowr a16 _ => inWindow a16
  | .iodw a16 _ => inWindow a16
  | .rd8 _ | .wr8 _ _ | .rd16 _ | .wr16 _ _ | .tstf _ | .setf _ | .clrf _
  | .add _ | .adc _ | .sub _ | .sbc _ | .and _ | .or _ | .xor _
  | .addr _ | .adcr _ | .subr _ | .sbcr _ | .andr _ | .orr _ | .xorr _
  | .addm _ | .adcm _ | .subm _ | .sbcm _ | .andm _ | .orm _ | .xorm _
  | .mov _ _ | .ldp _ _ | .stp _ _ | .lda _ _ | .sta _ _ | .ldi _ | .sti _ | .ld16 _ _
  | .inc16 _ | .dec16 _ | .push _ | .pop _
  | .mrd8 _ | .mwr8 _ _ | .mrd16 _ | .mwr16 _ _
  | .ioreset | .iotick _ | .iosync _ | .iodrain => true

end Sys2Proof
end

