-- ==== Sys2Proof/Safety.lean ====
section
/-! DEFINITION. The invariant of the machine, what a running block is, and the frames the statements use: what a command
leaves alone. -/

namespace Sys2Proof.Machine

/-- The block runs: no contract violation has stopped it (R254, R272). -/
def State.running (s : State) : Prop := s.fault = none

/-- What holds of every instance built by `construct`, and of every state its steps lead to. -/
structure State.Inv (s : State) : Prop where
  /-- External memory is in its canonical form. -/
  memCanonical : s.mem.wf
  /-- F's low nibble is zero at all times (R32). -/
  flagsLowZero : s.regs.f &&& 0x0F#8 = 0#8
  /-- There is one private state for each peripheral (R41). -/
  onePerPeripheral : s.pstates.length = s.cfg.peripherals.length
  /-- The ownership table is the one the claims give, with no configuration error (R237 to R239). -/
  ownerBuilt : ownerTable s.cfg.peripherals = .ok s.cfg.owner
  /-- A finite accumulator holds a value of its width (U6). -/
  accInRange : ∀ w, s.cfg.accWidth = some w → s.acc ≤ 2 ^ w - 1

/-! ### Frames -/

/-- Every 8-bit register outside `ws` reads in `t` as in `s`; so does every flag when F is not in `ws`. -/
def OnlyRegs (ws : List Reg8) (s t : State) : Prop := ∀ r, r ∉ ws → t.readReg8 r = s.readReg8 r

/-- `pc` and `sp` are unchanged. -/
def SamePcSp (s t : State) : Prop := t.regs.pc = s.regs.pc ∧ t.regs.sp = s.regs.sp

/-- `Acc`, the fault latch, the instance parameters with `Owner`, and the host's waiting inputs are unchanged. -/
structure SameControl (s t : State) : Prop where
  acc   : t.acc = s.acc
  fault : t.fault = s.fault
  cfg   : t.cfg = s.cfg
  inbox : t.inbox = s.inbox

/-- Everything outside the register file and the response is unchanged: every byte of the address space, window
included, the state of every peripheral and of the external memory, and the control state. No hook ran. -/
structure Untouched (E : Env) (s t : State) : Prop where
  control  : SameControl s t
  bytes    : ∀ a, t.peek E a = s.peek E a
  memState : t.memState = s.memState
  pstates  : t.pstates = s.pstates
  extSeq   : t.extSeq = s.extSeq

/-- What a command that reads the bytes at `reads` and stores to the bytes at `writes`, through the decoder, leaves
outside the register file and the response; `u` is the state those accesses lead to. Over the flat RAM every external byte
other than the stored ones is as before. Accesses that all lie in the window leave any external memory alone, whatever hooks
they run (R241). When every byte accessed is plain memory, every byte other than the stored ones is as before, and so
is every peripheral and the external memory's own state, for then no hook ran. -/
structure AccessFrame (E : Env) (reads writes : List Word) (u s t : State) : Prop where
  control  : SameControl s t
  mem      : t.mem = u.mem
  memState : t.memState = u.memState
  win      : t.win = u.win
  pstates  : t.pstates = u.pstates
  extSeq   : t.extSeq = u.extSeq
  external : s.cfg.extMem = .flatRam → ∀ a, windowOffset? a = none → a ∉ writes → t.peek E a = s.peek E a
  inWindow : (∀ a ∈ reads ++ writes, windowOffset? a ≠ none) → t.mem = s.mem ∧ t.memState = s.memState
  quiet    : (∀ a ∈ reads ++ writes, s.plainAt a = true) →
    t.pstates = s.pstates ∧ t.extSeq = s.extSeq ∧ t.memState = s.memState ∧ ∀ a, a ∉ writes → t.peek E a = s.peek E a

end Sys2Proof.Machine
end

