-- ==== Sys2Proof/Certificates/Slice0/Obligations.lean ====
section
/-! DEFINITION. The statements for the provers, each with the rule it formalises, and the words they are written in. -/

open Sys2Proof Sys2Proof.Machine

namespace Sys2Proof.Claims

/-! ### Words of the statements -/

/-- The halves of a 16-bit register; `pc` and `sp` have none (R22). -/
def halves : Reg16 → List Reg8
  | .bc => [.b, .c]
  | .de => [.d, .e]
  | .hl => [.h, .l]
  | .pc => []
  | .sp => []

/-- The four flags of a state. -/
def FlagsAre (t : State) (z n h c : Bool) : Prop :=
  t.readFlag .z = z ∧ t.readFlag .n = n ∧ t.readFlag .h = h ∧ t.readFlag .c = c

/-- A command answered `OK`, and outside `regs` and F's reading it left the whole machine alone but for `pc` and `sp`. -/
def RegisterOnly (regs : List Reg8) (s t : State) : Prop :=
  OnlyRegs regs s t ∧ Untouched Config.env s t ∧ t.resp = some .ok

/-- The three operand forms of an ALU function complete from every state, with `Result` of the state before, the resolved
operand and the state after, and change nothing but A, F and what the indirect form's one byte read changes (R130, R166). -/
def AluForms (value : Byte → Instr) (register : Reg8 → Instr) (indirect : Pair → Instr)
    (Result : State → Byte → State → Prop) : Prop :=
  (∀ s v, ∃ t, exec (value v) s = .next t ∧ Result s v t ∧ SamePcSp s t ∧ RegisterOnly [.a, .f] s t) ∧
  (∀ s r, ∃ t, exec (register r) s = .next t ∧ Result s (s.readReg8 r) t ∧ SamePcSp s t ∧ RegisterOnly [.a, .f] s t) ∧
  (∀ s p, ∃ t, exec (indirect p) s = .next t ∧
    Result s (s.memRead8 Config.env (s.readPair p)).1 t ∧ SamePcSp s t ∧ OnlyRegs [.a, .f] s t ∧
    AccessFrame Config.env [s.readPair p] [] (s.memRead8 Config.env (s.readPair p)).2 s t ∧ t.resp = some .ok)

/-- R131 and R161, on numbers: the new A and the flags of `a + v`. -/
def AddResult (s : State) (v : Byte) (t : State) : Prop :=
  let a := (s.readReg8 .a).toNat
  t.readReg8 .a = BitVec.ofNat 8 ((a + v.toNat) % 256) ∧
  FlagsAre t (decide ((a + v.toNat) % 256 = 0)) false (decide (a % 16 + v.toNat % 16 > 15)) (decide (a + v.toNat > 255))

/-- R132 and R162, on numbers: the new A and the flags of `a - v`, H and C set on a borrow (C1). -/
def SubResult (s : State) (v : Byte) (t : State) : Prop :=
  let a := (s.readReg8 .a).toNat
  t.readReg8 .a = BitVec.ofNat 8 ((a + 256 - v.toNat) % 256) ∧
  FlagsAre t (decide (a = v.toNat)) true (decide (a % 16 < v.toNat % 16)) (decide (a < v.toNat))

/-- R133: a bitwise result with its flags. -/
def LogicResult (op : Byte → Byte → Byte) (h : Bool) (s : State) (v : Byte) (t : State) : Prop :=
  t.readReg8 .a = op (s.readReg8 .a) v ∧ FlagsAre t (decide (op (s.readReg8 .a) v = 0#8)) false h false

/-- R134 and R135, on numbers, by the instance's `CARRY_MODE`. -/
def AdcResult (s : State) (v : Byte) (t : State) : Prop :=
  let a := (s.readReg8 .a).toNat
  let k := (s.readFlag .c).toNat
  t.readReg8 .a = BitVec.ofNat 8 ((a + v.toNat + k) % 256) ∧
  match s.cfg.carryMode with
  | .fold => FlagsAre t (decide ((a + v.toNat + k) % 256 = 0)) false
      (decide (a % 16 + (v.toNat + k) % 16 > 15)) (decide (a + (v.toNat + k) % 256 > 255))
  | .true3 => FlagsAre t (decide ((a + v.toNat + k) % 256 = 0)) false
      (decide (a % 16 + v.toNat % 16 + k > 15)) (decide (a + v.toNat + k > 255))

/-- R136 and R137, on numbers, by the instance's `CARRY_MODE`. -/
def SbcResult (s : State) (v : Byte) (t : State) : Prop :=
  let a := (s.readReg8 .a).toNat
  let k := (s.readFlag .c).toNat
  t.readReg8 .a = BitVec.ofNat 8 ((a + 512 - v.toNat - k) % 256) ∧
  match s.cfg.carryMode with
  | .fold => FlagsAre t (decide ((a + 512 - v.toNat - k) % 256 = 0)) true
      (decide (a % 16 < (v.toNat + k) % 16)) (decide (a < (v.toNat + k) % 256))
  | .true3 => FlagsAre t (decide ((a + 512 - v.toNat - k) % 256 = 0)) true
      (decide (a % 16 < v.toNat % 16 + k)) (decide (a < v.toNat + k))

/-- A word read as two byte reads: the byte at `a`, and then, in the state that read leaves, the byte at the next address
modulo 65536; the first of them is the low byte (R58). -/
def lowThenHighRead (E : Env) (s : State) (a : Word) : Word × State :=
  let lo := s.memRead8 E a
  let hi := lo.2.memRead8 E (a + 1)
  (hi.1 ++ lo.1, hi.2)

/-- A word write as two byte writes: `v[7:0]` at `a`, and then, in the state that write leaves, `v[15:8]` at the next
address modulo 65536 (R60). -/
def lowThenHighWrite (E : Env) (s : State) (a v : Word) : State :=
  (s.memWrite8 E a (v.extractLsb' 0 8)).memWrite8 E (a + 1) (v.extractLsb' 8 8)

/-- The hooks of a list of peripherals run first to last, each on its own state, on the window the one before it left,
and on the next sample of `ext` (R221, R230, R233): the states, the window and the number of samples they leave. -/
def hookChain (hook : PeripheralHooks → PState → Window → Ext → PState × Window) :
    List PeripheralDecl → List PState → Window → Nat → List PState × Window × Nat
  | p :: ps, st :: sts, w, k =>
    let r := hook (Config.hooks p.kind) st w (Config.extInput k)
    let rest := hookChain hook ps sts r.2 (k + 1)
    (r.1 :: rest.1, rest.2)
  | _, sts, w, k => (sts, w, k)

/-- A command whose only effects outside the response are one run of a hook over the peripherals, starting from window
`w`, and the accumulator's new value `acc`. -/
def HookRun (hook : PeripheralHooks → PState → Window → Ext → PState × Window) (w : Window) (acc : Nat)
    (s t : State) : Prop :=
  (t.pstates, t.win, t.extSeq) = hookChain hook s.cfg.peripherals s.pstates w s.extSeq ∧
  t.acc = acc ∧ t.regs = s.regs ∧ t.mem = s.mem ∧ t.memState = s.memState ∧ t.fault = s.fault ∧ t.cfg = s.cfg ∧ t.inbox = s.inbox ∧
  t.resp = some .ok

/-- What a field of a format holds (R82). -/
inductive IdKind where
  | unused | reg8 | reg16 | pair | flag

/-- What the field `A` holds (R82). -/
def aKind : Format → IdKind
  | .r | .rx | .rr | .rp | .rw => .reg8
  | .q | .qx => .reg16
  | .p | .px => .pair
  | .f => .flag
  | .n | .x8 | .w | .wx8 | .wx16 | .cy => .unused

/-- What the field `B` holds (R82). -/
def bKind : Format → IdKind
  | .rr => .reg8
  | .rp => .pair
  | .n | .r | .q | .p | .f | .rx | .qx | .px | .x8 | .rw | .w | .wx8 | .wx16 | .cy => .unused

/-- The code an id value of a kind raises (R86). -/
def idError (k : IdKind) (v : BitVec 4) : Option Violation :=
  match k with
  | .unused => none
  | .reg8 => if v.toNat ≤ 7 then none else some .badReg8Id
  | .reg16 => if v.toNat ≤ 4 then none else some .badReg16Id
  | .pair => if v.toNat ≤ 2 then none else some .badReg16Id
  | .flag => if v.toNat ≤ 3 then none else some .badFlagId

/-- The format of an `OP` value, by the ranges of R87; none for a reserved value (R89). -/
def formatOf (op : Nat) : Option Format :=
  if op = 0x01 then some .r else if op = 0x02 then some .rx
  else if op = 0x03 then some .q else if op = 0x04 then some .qx
  else if 0x05 ≤ op ∧ op ≤ 0x07 then some .f
  else if 0x10 ≤ op ∧ op ≤ 0x16 then some .x8
  else if 0x20 ≤ op ∧ op ≤ 0x26 then some .r
  else if 0x30 ≤ op ∧ op ≤ 0x36 then some .p
  else if op = 0x40 then some .rr
  else if 0x41 ≤ op ∧ op ≤ 0x42 then some .rp
  else if 0x43 ≤ op ∧ op ≤ 0x44 then some .rw
  else if 0x45 ≤ op ∧ op ≤ 0x46 then some .r
  else if op = 0x47 then some .px
  else if 0x50 ≤ op ∧ op ≤ 0x51 then some .p
  else if 0x60 ≤ op ∧ op ≤ 0x61 then some .p
  else if op = 0x70 ∨ op = 0x72 then some .w
  else if op = 0x71 then some .wx8 else if op = 0x73 then some .wx16
  else if op = 0x80 ∨ op = 0x83 then some .n
  else if 0x81 ≤ op ∧ op ≤ 0x82 then some .cy
  else if op = 0x84 then some .w
  else if 0x85 ≤ op ∧ op ≤ 0x86 then some .wx8
  else none

/-- The code of the first failing decode check, in the order of R88: `OP`, the must-be-zero bits (by the mask of R82), the
`A` id, the `B` id. -/
def firstFailure (w : Command) : Option Violation :=
  match formatOf (w.toNat / 2 ^ 40) with
  | none => some .badOp
  | some fmt =>
    if (w &&& fmt.mask).toNat % 2 ^ 40 ≠ 0 then some .reservedNonzero
    else match idError (aKind fmt) (aField w) with
      | some c => some c
      | none => idError (bKind fmt) (bField w)

/-- The commands that may write F: the ALU commands, SETF, CLRF, and those whose destination register is F (R33). -/
def writesF : Instr → Bool
  | .wr8 r _ => r == .f
  | .setf _ | .clrf _ => true
  | .add _ | .adc _ | .sub _ | .sbc _ | .and _ | .or _ | .xor _ => true
  | .addr _ | .adcr _ | .subr _ | .sbcr _ | .andr _ | .orr _ | .xorr _ => true
  | .addm _ | .adcm _ | .subm _ | .sbcm _ | .andm _ | .orm _ | .xorm _ => true
  | .mov rd _ => rd == .f
  | .ldp r _ | .lda r _ | .ldi r => r == .f
  | .rd8 _ | .rd16 _ | .wr16 _ _ | .tstf _ | .stp _ _ | .sta _ _ | .sti _ | .ld16 _ _ | .inc16 _ | .dec16 _
  | .push _ | .pop _ | .mrd8 _ | .mwr8 _ _ | .mrd16 _ | .mwr16 _ _
  | .ioreset | .iotick _ | .iosync _ | .iodrain | .iord _ | .iowr _ _ | .iodw _ _ => false

/-- The commands that store through the decoder (R62). -/
def storesToMemory : Instr → Bool
  | .stp _ _ | .sta _ _ | .sti _ | .push _ | .mwr8 _ _ | .mwr16 _ _ => true
  | .rd8 _ | .wr8 _ _ | .rd16 _ | .wr16 _ _ | .tstf _ | .setf _ | .clrf _
  | .add _ | .adc _ | .sub _ | .sbc _ | .and _ | .or _ | .xor _
  | .addr _ | .adcr _ | .subr _ | .sbcr _ | .andr _ | .orr _ | .xorr _
  | .addm _ | .adcm _ | .subm _ | .sbcm _ | .andm _ | .orm _ | .xorm _
  | .mov _ _ | .ldp _ _ | .lda _ _ | .ldi _ | .ld16 _ _ | .inc16 _ | .dec16 _ | .pop _ | .mrd8 _ | .mrd16 _
  | .ioreset | .iotick _ | .iosync _ | .iodrain | .iord _ | .iowr _ _ | .iodw _ _ => false

/-- The commands that read through the decoder (R62). -/
def loadsFromMemory : Instr → Bool
  | .addm _ | .adcm _ | .subm _ | .sbcm _ | .andm _ | .orm _ | .xorm _
  | .ldp _ _ | .lda _ _ | .ldi _ | .sti _ | .pop _ | .mrd8 _ | .mrd16 _ => true
  | .rd8 _ | .wr8 _ _ | .rd16 _ | .wr16 _ _ | .tstf _ | .setf _ | .clrf _
  | .add _ | .adc _ | .sub _ | .sbc _ | .and _ | .or _ | .xor _
  | .addr _ | .adcr _ | .subr _ | .sbcr _ | .andr _ | .orr _ | .xorr _
  | .mov _ _ | .stp _ _ | .sta _ _ | .ld16 _ _ | .inc16 _ | .dec16 _ | .push _ | .mwr8 _ _ | .mwr16 _ _
  | .ioreset | .iotick _ | .iosync _ | .iodrain | .iord _ | .iowr _ _ | .iodw _ _ => false

end Sys2Proof.Claims

open Sys2Proof.Claims

/-! ### Reset, the command port and the fault latch -/

/-- R45 and R47 of the model's reset state. Its `pc` is the free value `RESET_VECTOR`. -/
def Obligations.ResetStateIsZeroedWithPcAtTheVector : Prop :=
  (∀ r, State.reset.readReg8 r = 0#8) ∧ (∀ f, State.reset.readFlag f = false) ∧
  (∀ p, State.reset.readPair p = 0#16) ∧ State.reset.regs.sp = 0#16 ∧
  State.reset.regs.pc = State.reset.cfg.resetVector ∧ State.reset.fault = none

/-- R280 from every state of every instance: registers, coordinator, latch; external memory of either kind and the instance stay. -/
def Obligations.RstInputResetsTheBlock : Prop :=
  ∀ s rest, s.inbox = .rst :: rest → ∃ t, step s = .next t ∧
    (∀ r, t.readReg8 r = 0#8) ∧ t.regs.sp = 0#16 ∧ t.regs.pc = s.cfg.resetVector ∧
    (t.pstates, t.win, t.extSeq) =
      hookChain (fun p st w x => p.reset st w x) s.cfg.peripherals s.pstates (Vector.replicate 76 0#8) s.extSeq ∧
    t.acc = 0 ∧ t.fault = none ∧ t.mem = s.mem ∧ t.memState = s.memState ∧ t.cfg = s.cfg ∧ t.inbox = rest

/-- A word that decodes is executed; a step adds only the taking of the word (R88, log 1). -/
def Obligations.StepRunsTheDecodedCommand : Prop :=
  ∀ s w rest i, s.inbox = .cmd w :: rest → s.fault = none → decode w = .ok i →
    step s = exec i { s with inbox := rest }

/-- R253: a word that fails a decode check sets the latch and the response, and changes nothing else. -/
def Obligations.MalformedWordLatchesItsCodeOnly : Prop :=
  ∀ s w rest c, s.inbox = .cmd w :: rest → s.fault = none → decode w = .error c →
    step s = .next { s with inbox := rest, fault := some c, resp := some (.fault c) }

/-- R254: a stopped block answers every word with the latched code and does nothing. -/
def Obligations.StoppedBlockRefusesEveryWord : Prop :=
  ∀ s w rest c, s.inbox = .cmd w :: rest → s.fault = some c →
    step s = .next { s with inbox := rest, resp := some (.fault c) }

/-- R256 and R36: only `rst` clears the latch, and until then no step changes it to another code. -/
def Obligations.OnlyRstClearsTheLatch : Prop :=
  ∀ s t c, s.fault = some c → step s = .next t →
    (t.fault = none ∧ ∃ rest, s.inbox = .rst :: rest) ∨
    (t.fault = some c ∧ t.regs = s.regs ∧ t.mem = s.mem ∧ t.memState = s.memState ∧ t.win = s.win ∧
      t.pstates = s.pstates ∧ t.acc = s.acc)

/-- No step stops the run: every input is taken, every word is answered, and with nothing issued nothing happens
(R92, R254, R265). -/
def Obligations.EveryStepCompletesAndEveryWordIsAnswered : Prop :=
  (∀ s, ∃ t, step s = .next t) ∧
  (∀ s t w rest, s.inbox = .cmd w :: rest → step s = .next t → t.resp ≠ none ∧ t.inbox = rest) ∧
  (∀ s, s.inbox = [] → step s = .next s)

/-! ### Encoding -/

/-- D23 and R82: decoding the word of a command gives that command back. -/
def Obligations.DecodeOfEncodeIsTheCommand : Prop := ∀ i : Instr, decode (encode i) = .ok i

/-- D23: there is one word for each command instance. -/
def Obligations.EncodeOfDecodeIsTheWord : Prop := ∀ w i, decode w = .ok i → encode i = w

/-- R89: the reserved `OP` values, and only they, are rejected with `BadOp`. -/
def Obligations.ReservedOpsAndOnlyTheyAreBadOp : Prop :=
  ∀ w : Command, decode w = .error .badOp ↔
    (let o := w.toNat / 2 ^ 40
     o = 0x00 ∨ (0x08 ≤ o ∧ o ≤ 0x0F) ∨ (0x17 ≤ o ∧ o ≤ 0x1F) ∨ (0x27 ≤ o ∧ o ≤ 0x2F) ∨ (0x37 ≤ o ∧ o ≤ 0x3F) ∨
     (0x48 ≤ o ∧ o ≤ 0x4F) ∨ (0x52 ≤ o ∧ o ≤ 0x5F) ∨ (0x62 ≤ o ∧ o ≤ 0x6F) ∨ (0x74 ≤ o ∧ o ≤ 0x7F) ∨
     (0x87 ≤ o ∧ o ≤ 0xFF))

/-- R88 and R255: for every word, the decoder reports the code of the first failing check, and accepts when none
fails. -/
def Obligations.DecodeReportsTheFirstFailingCheck : Prop :=
  ∀ w, (∀ c, decode w = .error c ↔ firstFailure w = some c) ∧
    ((∃ i, decode w = .ok i) ↔ firstFailure w = none)

/-- The worked encodings of R95. -/
def Obligations.WorkedEncodingsDecode : Prop :=
  decode 0x1000000000FF#48 = .ok (.add 0xFF) ∧ decode 0x201000000000#48 = .ok (.addr .b) ∧
  decode 0x302000000000#48 = .ok (.addm .hl) ∧ decode 0x400100000000#48 = .ok (.mov .a .b) ∧
  decode 0x420200000000#48 = .ok (.stp .hl .a) ∧ decode 0x4340C0000000#48 = .ok (.lda .e 0xC000) ∧
  decode 0x472000001234#48 = .ok (.ld16 .hl 0x1234) ∧ decode 0x04400000FFFE#48 = .ok (.wr16 .sp 0xFFFE) ∧
  decode 0x600000000000#48 = .ok (.push .bc) ∧ decode 0x7300C000BEEF#48 = .ok (.mwr16 0xC000 0xBEEF) ∧
  decode 0x820000000004#48 = .ok (.iosync 4) ∧ decode 0x8500FF040000#48 = .ok (.iowr 0xFF04 0x00)

/-! ### Register file -/

/-- R110, R112, R114: the value is answered and nothing else changes; F reads as its four flags over a zero nibble. -/
def Obligations.ReadCommandsAnswerAndChangeNothing : Prop :=
  (∀ s r, exec (.rd8 r) s = .next { s with resp := some (.byte (s.readReg8 r)) }) ∧
  (∀ s q, exec (.rd16 q) s = .next { s with resp := some (.word (s.readReg16 q)) }) ∧
  (∀ s f, exec (.tstf f) s = .next { s with resp := some (.bit (s.readFlag f)) }) ∧
  (∀ s : State, (s.readReg8 .f).toNat = 128 * (s.readFlag .z).toNat + 64 * (s.readFlag .n).toNat +
    32 * (s.readFlag .h).toNat + 16 * (s.readFlag .c).toNat)

/-- R111: the register named takes the byte, F its high nibble; every other register and all else is unchanged. -/
def Obligations.Wr8WritesTheRegisterNamed : Prop :=
  ∀ s r v, ∃ t, exec (.wr8 r v) s = .next t ∧
    t.readReg8 r = (if r = .f then v &&& 0xF0#8 else v) ∧
    (r = .f → FlagsAre t (v.getLsbD 7) (v.getLsbD 6) (v.getLsbD 5) (v.getLsbD 4)) ∧
    SamePcSp s t ∧ RegisterOnly [r] s t

/-- R113 and R177: the 16-bit register named takes the word; only its halves change among the 8-bit registers, and LD16
has the effect of WR16 on a pair. -/
def Obligations.Wr16AndLd16WriteTheRegisterNamed : Prop :=
  (∀ s q v, ∃ t, exec (.wr16 q v) s = .next t ∧ t.readReg16 q = v ∧
    (∀ q', q' ≠ q → t.readReg16 q' = s.readReg16 q') ∧ RegisterOnly (halves q) s t) ∧
  (∀ s p v, ∃ t, exec (.ld16 p v) s = .next t ∧ exec (.wr16 (pairReg p) v) s = .next t ∧ t.readPair p = v ∧
    SamePcSp s t ∧ RegisterOnly (halves (pairReg p)) s t)

/-- R24: 16-bit access is 8-bit access, the first-named register high. -/
def Obligations.PairsAliasTheirHalves : Prop :=
  ∀ (s : State) (v : Word) (u : Byte),
    ((s.writeReg16 .bc v).readReg8 .b = v.extractLsb' 8 8 ∧ (s.writeReg16 .bc v).readReg8 .c = v.extractLsb' 0 8) ∧
    ((s.writeReg16 .de v).readReg8 .d = v.extractLsb' 8 8 ∧ (s.writeReg16 .de v).readReg8 .e = v.extractLsb' 0 8) ∧
    ((s.writeReg16 .hl v).readReg8 .h = v.extractLsb' 8 8 ∧ (s.writeReg16 .hl v).readReg8 .l = v.extractLsb' 0 8) ∧
    (s.writeReg16 .pc v).regs.pc = v ∧ (s.writeReg16 .sp v).regs.sp = v ∧
    (∀ q, (s.writeReg16 q v).readReg16 q = v) ∧
    ((s.writeReg8 .b u).readReg16 .bc = u ++ s.readReg8 .c ∧ (s.writeReg8 .c u).readReg16 .bc = s.readReg8 .b ++ u) ∧
    ((s.writeReg8 .d u).readReg16 .de = u ++ s.readReg8 .e ∧ (s.writeReg8 .e u).readReg16 .de = s.readReg8 .d ++ u) ∧
    ((s.writeReg8 .h u).readReg16 .hl = u ++ s.readReg8 .l ∧ (s.writeReg8 .l u).readReg16 .hl = s.readReg8 .h ++ u)

/-- R115 and R116: the flag named becomes 1 or 0, and nothing else changes. -/
def Obligations.SetfAndClrfChangeTheFlagNamed : Prop :=
  (∀ s f, ∃ t, exec (.setf f) s = .next t ∧ t.readFlag f = true ∧ (∀ g, g ≠ f → t.readFlag g = s.readFlag g) ∧
    SamePcSp s t ∧ RegisterOnly [.f] s t) ∧
  (∀ s f, ∃ t, exec (.clrf f) s = .next t ∧ t.readFlag f = false ∧ (∀ g, g ≠ f → t.readFlag g = s.readFlag g) ∧
    SamePcSp s t ∧ RegisterOnly [.f] s t)

/-! ### ALU -/

/-- R131, R161: ADD, ADDR, ADDM. -/
def Obligations.AddFormsGiveSumAndFlags : Prop := AluForms .add .addr .addm AddResult

/-- R132, R162: SUB, SUBR, SUBM. -/
def Obligations.SubFormsGiveDifferenceAndFlags : Prop := AluForms .sub .subr .subm SubResult

/-- R133, R163: AND, OR, XOR and their register and indirect forms. -/
def Obligations.LogicFormsGiveResultAndFlags : Prop :=
  AluForms .and .andr .andm (LogicResult (· &&& ·) true) ∧
  AluForms .or .orr .orm (LogicResult (· ||| ·) false) ∧
  AluForms .xor .xorr .xorm (LogicResult (· ^^^ ·) false)

/-- R134, R135: ADC, ADCR, ADCM in both carry modes. -/
def Obligations.AdcFormsGiveSumAndFlagsInBothModes : Prop := AluForms .adc .adcr .adcm AdcResult

/-- R136, R137: SBC, SBCR, SBCM in both carry modes. -/
def Obligations.SbcFormsGiveDifferenceAndFlagsInBothModes : Prop := AluForms .sbc .sbcr .sbcm SbcResult

/-- R138: FOLD and TRUE3 give the same A, Z and N, and differ in H exactly when the carry-in is 1 and the operand's low
nibble is 0xF, in C exactly when the carry-in is 1 and the operand is 0xFF. -/
def Obligations.CarryModesDifferExactlyAtTheBoundaries : Prop :=
  ∀ (result : CarryMode → Byte → Nat → Nat → AluResult), result = adcResult ∨ result = sbcResult →
    ∀ (a v : Byte) (k : Bool),
      let fold := result .fold a v.toNat k.toNat
      let true3 := result .true3 a v.toNat k.toNat
      fold.value = true3.value ∧ fold.z = true3.z ∧ fold.n = true3.n ∧
      (if k = true ∧ v.toNat % 16 = 15 then fold.h = false ∧ true3.h = true else fold.h = true3.h) ∧
      (if k = true ∧ v.toNat = 255 then fold.c = false ∧ true3.c = true else fold.c = true3.c)

/-! ### Loads and stores -/

/-- R170: MOV copies a register; F takes the high nibble of the byte. -/
def Obligations.MovCopiesARegister : Prop :=
  ∀ s rd rs, ∃ t, exec (.mov rd rs) s = .next t ∧
    t.readReg8 rd = (if rd = .f then s.readReg8 rs &&& 0xF0#8 else s.readReg8 rs) ∧
    SamePcSp s t ∧ RegisterOnly [rd] s t

/-- R171 and R173: LDP and LDA load the byte read at their address; nothing else changes but what the read changes. -/
def Obligations.LdpAndLdaLoadTheByteAtTheirAddress : Prop :=
  (∀ s r p, ∃ t, exec (.ldp r p) s = .next t ∧
    (let rd := s.memRead8 Config.env (s.readPair p)
     t.readReg8 r = (if r = .f then rd.1 &&& 0xF0#8 else rd.1) ∧ SamePcSp s t ∧ OnlyRegs [r] s t ∧
     AccessFrame Config.env [s.readPair p] [] rd.2 s t ∧ t.resp = some .ok ∧
     (s.plainAt (s.readPair p) = true → rd.1 = s.peek Config.env (s.readPair p)))) ∧
  (∀ s r a, ∃ t, exec (.lda r a) s = .next t ∧
    (let rd := s.memRead8 Config.env a
     t.readReg8 r = (if r = .f then rd.1 &&& 0xF0#8 else rd.1) ∧ SamePcSp s t ∧ OnlyRegs [r] s t ∧
     AccessFrame Config.env [a] [] rd.2 s t ∧ t.resp = some .ok ∧ (s.plainAt a = true → rd.1 = s.peek Config.env a)))

/-- R172 and R174: STP and STA store the register at their address, and change no register. -/
def Obligations.StpAndStaStoreTheRegisterAtTheirAddress : Prop :=
  (∀ s p r, ∃ t, exec (.stp p r) s = .next t ∧
    (let a := s.readPair p
     (s.plainAt a = true → t.peek Config.env a = s.readReg8 r) ∧ SamePcSp s t ∧ OnlyRegs [] s t ∧
     AccessFrame Config.env [] [a] (s.memWrite8 Config.env a (s.readReg8 r)) s t ∧ t.resp = some .ok)) ∧
  (∀ s a r, ∃ t, exec (.sta a r) s = .next t ∧
    (s.plainAt a = true → t.peek Config.env a = s.readReg8 r) ∧ SamePcSp s t ∧ OnlyRegs [] s t ∧
    AccessFrame Config.env [] [a] (s.memWrite8 Config.env a (s.readReg8 r)) s t ∧ t.resp = some .ok)

/-- R175: LDI loads the byte at the little-endian address that stands at pc+1 and pc+2. -/
def Obligations.LdiLoadsThroughTheImmediateAfterPc : Prop :=
  ∀ s r, ∃ t, exec (.ldi r) s = .next t ∧
    (let addr := lowThenHighRead Config.env s (s.regs.pc + 1)
     let rd := addr.2.memRead8 Config.env addr.1
     t.readReg8 r = (if r = .f then rd.1 &&& 0xF0#8 else rd.1) ∧ SamePcSp s t ∧ OnlyRegs [r] s t ∧
     AccessFrame Config.env [s.regs.pc + 1, s.regs.pc + 2, addr.1] [] rd.2 s t ∧ t.resp = some .ok ∧
     (s.plainAt (s.regs.pc + 1) = true → s.plainAt (s.regs.pc + 2) = true →
       addr.1 = s.peek Config.env (s.regs.pc + 2) ++ s.peek Config.env (s.regs.pc + 1) ∧
       (s.plainAt addr.1 = true → rd.1 = s.peek Config.env addr.1)))

/-- R176: STI stores the register at the little-endian address that stands at pc+1 and pc+2. -/
def Obligations.StiStoresThroughTheImmediateAfterPc : Prop :=
  ∀ s r, ∃ t, exec (.sti r) s = .next t ∧
    (let addr := lowThenHighRead Config.env s (s.regs.pc + 1)
     SamePcSp s t ∧ OnlyRegs [] s t ∧
     AccessFrame Config.env [s.regs.pc + 1, s.regs.pc + 2] [addr.1]
       (addr.2.memWrite8 Config.env addr.1 (s.readReg8 r)) s t ∧ t.resp = some .ok ∧
     (s.plainAt addr.1 = true → t.peek Config.env addr.1 = s.readReg8 r) ∧
     (s.plainAt (s.regs.pc + 1) = true → s.plainAt (s.regs.pc + 2) = true →
       addr.1 = s.peek Config.env (s.regs.pc + 2) ++ s.peek Config.env (s.regs.pc + 1)))

/-- R180: what STA stores at an address of plain memory, LDA loads. -/
def Obligations.StaThenLdaCopiesARegister : Prop :=
  ∀ s a r r2, s.plainAt a = true → ∃ t u, exec (.sta a r) s = .next t ∧ exec (.lda r2 a) t = .next u ∧
    u.readReg8 r2 = (if r2 = .f then s.readReg8 r &&& 0xF0#8 else s.readReg8 r)

/-! ### 16-bit increment and decrement -/

/-- R190 and R191: one more and one less modulo 65536, no flag and nothing outside the pair changed (R193). -/
def Obligations.Inc16AndDec16CountModulo65536 : Prop :=
  (∀ s p, ∃ t, exec (.inc16 p) s = .next t ∧
    (t.readPair p).toNat = ((s.readPair p).toNat + 1) % 65536 ∧ SamePcSp s t ∧ RegisterOnly (halves (pairReg p)) s t) ∧
  (∀ s p, ∃ t, exec (.dec16 p) s = .next t ∧
    (t.readPair p).toNat = ((s.readPair p).toNat + 65535) % 65536 ∧ SamePcSp s t ∧
    RegisterOnly (halves (pairReg p)) s t)

/-- R192: in either order the two leave the pair and F as they were. -/
def Obligations.Inc16AndDec16UndoEachOther : Prop :=
  ∀ s p,
    (∃ t u, exec (.inc16 p) s = .next t ∧ exec (.dec16 p) t = .next u ∧
      u.readPair p = s.readPair p ∧ u.readReg8 .f = s.readReg8 .f) ∧
    (∃ t u, exec (.dec16 p) s = .next t ∧ exec (.inc16 p) t = .next u ∧
      u.readPair p = s.readPair p ∧ u.readReg8 .f = s.readReg8 .f)

/-! ### Stack -/

/-- R195: `sp` goes down by two and the pair is stored at the new `sp`, low register first: the byte at `sp` is stored, with
its owner's hook, before the byte at `sp + 1` is, also when both are owned. -/
def Obligations.PushStoresThePairBelowSp : Prop :=
  ∀ s p, ∃ t, exec (.push p) s = .next t ∧
    (let a := s.regs.sp - 2
     t.regs.sp = a ∧ t.regs.pc = s.regs.pc ∧ OnlyRegs [] s t ∧
     AccessFrame Config.env [] [a, a + 1] (lowThenHighWrite Config.env s a (s.readPair p)) s t ∧ t.resp = some .ok ∧
     (s.plainAt a = true → s.plainAt (a + 1) = true →
       t.peek Config.env a = (s.readPair p).extractLsb' 0 8 ∧
       t.peek Config.env (a + 1) = (s.readPair p).extractLsb' 8 8))

/-- R196: the word at `sp`, its byte at `sp` read first, goes to the pair and `sp` goes up by two. -/
def Obligations.PopLoadsThePairAtSp : Prop :=
  ∀ s p, ∃ t, exec (.pop p) s = .next t ∧
    (let rd := lowThenHighRead Config.env s s.regs.sp
     t.readPair p = rd.1 ∧ t.regs.sp = s.regs.sp + 2 ∧ t.regs.pc = s.regs.pc ∧ OnlyRegs (halves (pairReg p)) s t ∧
     AccessFrame Config.env [s.regs.sp, s.regs.sp + 1] [] rd.2 s t ∧ t.resp = some .ok ∧
     (s.plainAt s.regs.sp = true → s.plainAt (s.regs.sp + 1) = true →
       rd.1 = s.peek Config.env (s.regs.sp + 1) ++ s.peek Config.env s.regs.sp))

/-- R197: over plain bytes, POP gives back what PUSH stored, to the same pair or another, and `sp` returns. -/
def Obligations.PushThenPopCopiesThePair : Prop :=
  ∀ s p1 p2, s.plainAt (s.regs.sp - 2) = true → s.plainAt (s.regs.sp - 1) = true →
    ∃ t u, exec (.push p1) s = .next t ∧ exec (.pop p2) t = .next u ∧
      u.readPair p2 = s.readPair p1 ∧ u.regs.sp = s.regs.sp

/-! ### Memory -/

/-- R57 and R227: a byte read, in every environment, by where the address lies and who owns it. Outside the window it is
`ExtRead` of the instance's `EXTMEM` (R56): of the flat RAM the byte listed, else the free value. -/
def Obligations.ByteReadGoesThroughTheDecoder : Prop :=
  ∀ (E : Env) (s : State) (a : Word),
    (¬ (0xFF00 ≤ a.toNat ∧ a.toNat ≤ 0xFF4B) → s.cfg.extMem = .flatRam →
      s.memRead8 E a = ((s.mem.get? a.toNat).getD (E.extInit a), s)) ∧
    (∀ k, ¬ (0xFF00 ≤ a.toNat ∧ a.toNat ≤ 0xFF4B) → s.cfg.extMem = .other k →
      (let r := (E.extMems k).read s.memState a
       s.memRead8 E a = (r.1, { s with memState := r.2 }))) ∧
    (∀ o : Offset, a.toNat = 0xFF00 + o.val → s.cfg.owner[o] = none → s.memRead8 E a = (s.win[o], s)) ∧
    (∀ (o : Offset) (i : Nat) (p : PeripheralDecl) (st : PState), a.toNat = 0xFF00 + o.val →
      s.cfg.owner[o] = some i → s.cfg.peripherals[i]? = some p → s.pstates[i]? = some st →
      (let r := (E.hooks p.kind).onRead st s.win a (E.ext s.extSeq)
       s.memRead8 E a = (r.2[o], { s with pstates := s.pstates.set i r.1, win := r.2, extSeq := s.extSeq + 1 })))

/-- R59 and R229: a byte write, in every environment; an owned byte is stored before its hook runs. Outside the window it is
`ExtWrite` of the instance's `EXTMEM` (R56). -/
def Obligations.ByteWriteGoesThroughTheDecoder : Prop :=
  ∀ (E : Env) (s : State) (a : Word) (v : Byte),
    (¬ (0xFF00 ≤ a.toNat ∧ a.toNat ≤ 0xFF4B) → s.cfg.extMem = .flatRam →
      s.memWrite8 E a v = { s with mem := s.mem.put a.toNat v }) ∧
    (∀ k, ¬ (0xFF00 ≤ a.toNat ∧ a.toNat ≤ 0xFF4B) → s.cfg.extMem = .other k →
      s.memWrite8 E a v = { s with memState := (E.extMems k).write s.memState a v }) ∧
    (∀ o : Offset, a.toNat = 0xFF00 + o.val → s.cfg.owner[o] = none →
      s.memWrite8 E a v = { s with win := s.win.set o v }) ∧
    (∀ (o : Offset) (i : Nat) (p : PeripheralDecl) (st : PState), a.toNat = 0xFF00 + o.val →
      s.cfg.owner[o] = some i → s.cfg.peripherals[i]? = some p → s.pstates[i]? = some st →
      (let r := (E.hooks p.kind).onWrite st (s.win.set o v) a v (E.ext s.extSeq)
       s.memWrite8 E a v = { s with pstates := s.pstates.set i r.1, win := r.2, extSeq := s.extSeq + 1 }))

/-- R58 and R60, in every environment and owned bytes included: a word access is two byte accesses, the lower address first,
the second in the state the first leaves. R51, R53 and R56: bytes and words written to plain memory read back, words
little-endian, also across the top of the space, and a write leaves every other byte alone. -/
def Obligations.WordsAreTwoBytesLowFirstAndReadBack : Prop :=
  ∀ (E : Env) (s : State) (a : Word),
    s.memRead16 E a = lowThenHighRead E s a ∧
    (∀ v, s.memWrite16 E a v = lowThenHighWrite E s a v) ∧
    (s.plainAt a = true →
      (∀ v : Byte, (s.memWrite8 E a v).peek E a = v ∧
        ∀ b, b ≠ a → (s.memWrite8 E a v).peek E b = s.peek E b) ∧
      (s.plainAt (a + 1) = true → ∀ v : Word,
        ((s.memWrite16 E a v).memRead8 E a).1 = v.extractLsb' 0 8 ∧
        ((s.memWrite16 E a v).memRead8 E (a + 1)).1 = v.extractLsb' 8 8 ∧
        ((s.memWrite16 E a v).memRead16 E a).1 = v ∧
        ∀ b, b ≠ a → b ≠ a + 1 → (s.memWrite16 E a v).peek E b = s.peek E b))

/-- R205 and R207: MRD8 and MRD16 answer the byte and the word read, and change no register. -/
def Obligations.Mrd8AndMrd16AnswerWhatTheyRead : Prop :=
  (∀ s a, ∃ t, exec (.mrd8 a) s = .next t ∧
    (let rd := s.memRead8 Config.env a
     t.resp = some (.byte rd.1) ∧ SamePcSp s t ∧ OnlyRegs [] s t ∧ AccessFrame Config.env [a] [] rd.2 s t ∧
     (s.plainAt a = true → rd.1 = s.peek Config.env a))) ∧
  (∀ s a, ∃ t, exec (.mrd16 a) s = .next t ∧
    (let rd := lowThenHighRead Config.env s a
     t.resp = some (.word rd.1) ∧ SamePcSp s t ∧ OnlyRegs [] s t ∧ AccessFrame Config.env [a, a + 1] [] rd.2 s t ∧
     (s.plainAt a = true → s.plainAt (a + 1) = true →
       rd.1 = s.peek Config.env (a + 1) ++ s.peek Config.env a)))

/-- R206 and R208: MWR8 and MWR16 store the byte and the word, low byte at the lower address and first, and change no register. -/
def Obligations.Mwr8AndMwr16StoreTheirValue : Prop :=
  (∀ s a v, ∃ t, exec (.mwr8 a v) s = .next t ∧
    SamePcSp s t ∧ OnlyRegs [] s t ∧ AccessFrame Config.env [] [a] (s.memWrite8 Config.env a v) s t ∧
    t.resp = some .ok ∧ (s.plainAt a = true → t.peek Config.env a = v)) ∧
  (∀ s a v, ∃ t, exec (.mwr16 a v) s = .next t ∧
    SamePcSp s t ∧ OnlyRegs [] s t ∧ AccessFrame Config.env [] [a, a + 1] (lowThenHighWrite Config.env s a v) s t ∧
    t.resp = some .ok ∧
    (s.plainAt a = true → s.plainAt (a + 1) = true →
      t.peek Config.env a = v.extractLsb' 0 8 ∧ t.peek Config.env (a + 1) = v.extractLsb' 8 8))

/-! ### I/O coordinator -/

/-- R233 (IORESET): the window is zeroed, every `reset` hook runs once in list order, the accumulator is zeroed. -/
def Obligations.IoresetZeroesThenRunsResetHooksInOrder : Prop :=
  ∀ s, ∃ t, exec .ioreset s = .next t ∧ HookRun (fun p st w x => p.reset st w x) (Vector.replicate 76 0#8) 0 s t

/-- R230 and R224 (IOTICK): every `tick` hook runs once with the count, in list order; `Acc` is unchanged. -/
def Obligations.IotickRunsTickHooksInOrder : Prop :=
  ∀ s n, ∃ t, exec (.iotick n) s = .next t ∧ HookRun (fun p st w x => p.tick st w n x) s.win s.acc s t

/-- R231 (IOSYNC): the accumulator gains the count and every `tick` hook runs with it. A finite accumulator the sum does
not fit raises `AccOverflow` with no other effect (U6). -/
def Obligations.IosyncAccumulatesAndTicks : Prop :=
  (∀ s n, s.cfg.accWidth = none → ∃ t, exec (.iosync n) s = .next t ∧
    HookRun (fun p st w x => p.tick st w n x) s.win (s.acc + n.toNat) s t) ∧
  (∀ s n w, s.cfg.accWidth = some w → s.acc + n.toNat ≤ 2 ^ w - 1 → ∃ t, exec (.iosync n) s = .next t ∧
    HookRun (fun p st w x => p.tick st w n x) s.win (s.acc + n.toNat) s t) ∧
  (∀ s n w, s.cfg.accWidth = some w → 2 ^ w - 1 < s.acc + n.toNat →
    exec (.iosync n) s = .next { s with fault := some .accOverflow, resp := some (.fault .accOverflow) })

/-- R232 (IODRAIN): the accumulator is answered and zeroed, and nothing else changes. -/
def Obligations.IodrainAnswersAndClearsAcc : Prop :=
  ∀ s, exec .iodrain s = .next { s with acc := 0, resp := some (.count s.acc) }

/-- The source's property of the accumulator (R226): two syncs and a drain give the sum, a second drain gives 0. -/
def Obligations.TwoSyncsThenDrainGiveTheSum : Prop :=
  ∀ s c1 c2, s.cfg.accWidth = none → s.acc = 0 →
    ∃ t u v w, exec (.iosync c1) s = .next t ∧ exec (.iosync c2) t = .next u ∧
      exec .iodrain u = .next v ∧ v.resp = some (.count (c1.toNat + c2.toNat)) ∧
      exec .iodrain v = .next w ∧ w.resp = some (.count 0)

/-- R219 (IORD): in the window, the byte read through the owner's hook is answered, as MRD8 does (R209). -/
def Obligations.IordAnswersTheWindowByte : Prop :=
  ∀ s a, 0xFF00 ≤ a.toNat → a.toNat ≤ 0xFF4B → ∃ t, exec (.iord a) s = .next t ∧ exec (.mrd8 a) s = .next t ∧
    (let rd := s.memRead8 Config.env a
     t.resp = some (.byte rd.1) ∧ SamePcSp s t ∧ OnlyRegs [] s t ∧ AccessFrame Config.env [a] [] rd.2 s t ∧
     (s.plainAt a = true → rd.1 = s.peek Config.env a))

/-- R220 and R222 (IOWR, IODW): in the window, IOWR stores and runs the owner's hook, as MWR8 does (R209), and IODW stores
and runs none. -/
def Obligations.IowrAndIodwStoreTheWindowByte : Prop :=
  (∀ s a v, 0xFF00 ≤ a.toNat → a.toNat ≤ 0xFF4B → ∃ t, exec (.iowr a v) s = .next t ∧ exec (.mwr8 a v) s = .next t ∧
    SamePcSp s t ∧ OnlyRegs [] s t ∧ AccessFrame Config.env [] [a] (s.memWrite8 Config.env a v) s t ∧
    t.resp = some .ok ∧ (s.plainAt a = true → t.peek Config.env a = v)) ∧
  (∀ s a v, 0xFF00 ≤ a.toNat → a.toNat ≤ 0xFF4B → ∃ t, exec (.iodw a v) s = .next t ∧
    SamePcSp s t ∧ OnlyRegs [] s t ∧ SameControl s t ∧ t.mem = s.mem ∧ t.memState = s.memState ∧
    t.pstates = s.pstates ∧ t.extSeq = s.extSeq ∧
    t.resp = some .ok ∧ t.peek Config.env a = v ∧ ∀ b, b ≠ a → t.peek Config.env b = s.peek Config.env b)

/-- R223: IORD, IOWR and IODW outside the window raise `IoAddrRange` with no state change. -/
def Obligations.IoCommandsOutsideTheWindowFault : Prop :=
  ∀ s a v, ¬ (0xFF00 ≤ a.toNat ∧ a.toNat ≤ 0xFF4B) →
    (let t := { s with fault := some .ioAddrRange, resp := some (.fault .ioAddrRange) }
     exec (.iord a) s = .next t ∧ exec (.iowr a v) s = .next t ∧ exec (.iodw a v) s = .next t)

/-- The source's round trip (R226, R244): at an unowned window byte, IORD answers what IOWR or IODW stored. -/
def Obligations.UnownedWindowByteRoundTrip : Prop :=
  ∀ s a v, 0xFF00 ≤ a.toNat → a.toNat ≤ 0xFF4B → s.plainAt a = true →
    (∃ t u, exec (.iowr a v) s = .next t ∧ exec (.iord a) t = .next u ∧ u.resp = some (.byte v)) ∧
    (∃ t u, exec (.iodw a v) s = .next t ∧ exec (.iord a) t = .next u ∧ u.resp = some (.byte v))

/-! ### Construction -/

/-- R237 to R239: construction fails exactly when a claim lies outside the window or an address is claimed twice, and
otherwise the owner of each window byte is the peripheral that claims it. -/
def Obligations.OwnershipFollowsTheClaims : Prop :=
  ∀ (E : Env) (rv : Word) (m : CarryMode) (aw : Option Nat) (xm : ExtMem) (ps : List PeripheralDecl)
    (mem : Memory) (ms : ExtMemState),
    ((∃ e, construct E rv m aw xm ps mem ms = .fault e) ↔
      ¬ ((∀ p ∈ ps, ∀ a ∈ p.claims, 0xFF00 ≤ a.toNat ∧ a.toNat ≤ 0xFF4B) ∧ (ps.flatMap (·.claims)).Nodup)) ∧
    (∀ s, construct E rv m aw xm ps mem ms = .next s → s.cfg.peripherals = ps ∧
      ∀ (o : Offset) (i : Nat), s.cfg.owner[o] = some i ↔
        ∃ p, ps[i]? = some p ∧ BitVec.ofNat 16 (0xFF00 + o.val) ∈ p.claims)

/-- What `construct` builds meets the invariant, when the memory placed by the host is canonical. -/
def Obligations.ConstructedInstancesMeetTheInvariant : Prop :=
  ∀ (E : Env) (rv : Word) (m : CarryMode) (aw : Option Nat) (xm : ExtMem) (ps : List PeripheralDecl)
    (mem : Memory) (ms : ExtMemState) (s : State),
    mem.wf → construct E rv m aw xm ps mem ms = .next s → s.Inv

/-! ### Whole-machine rules -/

/-- The reset state meets the invariant. -/
def Obligations.ResetMeetsTheInvariant : Prop := State.reset.Inv

/-- Every step keeps the invariant: memory canonical, F's low nibble zero (R32), one state for each peripheral, the
ownership table that of the claims, a finite accumulator in range (U6). -/
def Obligations.EveryStepKeepsTheInvariant : Prop := ∀ s t, s.Inv → step s = .next t → t.Inv

/-- R25 and R28: no command but WR16 PC writes `pc`; no command but WR16 SP, PUSH and POP writes `sp`. -/
def Obligations.OnlyNamedCommandsWritePcAndSp : Prop :=
  ∀ i s t, exec i s = .next t →
    (t.regs.pc = s.regs.pc ∨ ∃ v, i = .wr16 .pc v) ∧
    (t.regs.sp = s.regs.sp ∨ (∃ v, i = .wr16 .sp v) ∨ (∃ p, i = .push p) ∨ ∃ p, i = .pop p)

/-- R33: no command but those of its table writes a flag, and F's low nibble reads zero always (R32). -/
def Obligations.OnlyNamedCommandsWriteFlags : Prop :=
  (∀ i s t, exec i s = .next t → writesF i = false → t.readReg8 .f = s.readReg8 .f) ∧
  (∀ s : State, s.readReg8 .f &&& 0x0F#8 = 0#8)

/-- R225: IOSYNC, IODRAIN and IORESET alone change `Acc`. -/
def Obligations.OnlyCoordinatorCommandsChangeAcc : Prop :=
  ∀ i s t, exec i s = .next t → (∀ n, i ≠ .iosync n) → i ≠ .iodrain → i ≠ .ioreset → t.acc = s.acc

/-- R62 and R241: no command but those that store through the decoder changes a byte of the flat RAM, and no command but
those that access memory through the decoder reaches another `EXTMEM`, whatever the hooks do. -/
def Obligations.OnlyStoringCommandsChangeExternalMemory : Prop :=
  ∀ i s t, exec i s = .next t →
    (storesToMemory i = false → t.mem = s.mem) ∧
    (s.cfg.extMem = .flatRam → t.memState = s.memState) ∧
    (loadsFromMemory i = false → storesToMemory i = false → t.mem = s.mem ∧ t.memState = s.memState)

/-- R250: a well-formed command raises no contract violation once it executes, in an instance whose accumulator holds
the sum. -/
def Obligations.WellFormedCommandsRaiseNothing : Prop :=
  ∀ i s, s.running → i.wellFormed = true → (∀ n, i = .iosync n → s.accFits n = true) →
    ∃ t, exec i s = .next t ∧ t.running ∧ ∀ c, t.resp ≠ some (.fault c)

/-- R237 and R44: no step changes the ownership table or a parameter of the instance. -/
def Obligations.EveryStepKeepsTheInstance : Prop := ∀ s t, step s = .next t → t.cfg = s.cfg
end

