-- ==== Sys2Proof/Laws/Encoding.lean ====
section
/-! SUPPORT. The fields of a packed word (R80), the ids (R20, R23, R30), and the rows of the op map (R87). -/

namespace Sys2Proof

/-! ### Fields of a packed word -/

/-- Bit `k` of a packed word, by the field it lies in. -/
theorem getLsbD_pack (op : BitVec 8) (a b : BitVec 4) (w x : BitVec 16) (k : Nat) :
    (pack op a b w x).getLsbD k =
      if k < 16 then x.getLsbD k
      else if k < 32 then w.getLsbD (k - 16)
      else if k < 36 then b.getLsbD (k - 32)
      else if k < 40 then a.getLsbD (k - 36)
      else op.getLsbD (k - 40) := by
  unfold pack
  simp only [BitVec.getLsbD_append]
  repeat' split
  all_goals first | omega | rfl

section fields
variable (op : BitVec 8) (a b : BitVec 4) (w x : BitVec 16)

@[simp] theorem opField_pack : opField (pack op a b w x) = op := by
  apply BitVec.eq_of_getLsbD_eq
  intro i hi
  simp only [opField, BitVec.getLsbD_extractLsb', getLsbD_pack, hi, decide_true, Bool.true_and]
  repeat' split
  all_goals first | omega | (congr 1; omega)

@[simp] theorem aField_pack : aField (pack op a b w x) = a := by
  apply BitVec.eq_of_getLsbD_eq
  intro i hi
  simp only [aField, BitVec.getLsbD_extractLsb', getLsbD_pack, hi, decide_true, Bool.true_and]
  repeat' split
  all_goals first | omega | (congr 1; omega)

@[simp] theorem bField_pack : bField (pack op a b w x) = b := by
  apply BitVec.eq_of_getLsbD_eq
  intro i hi
  simp only [bField, BitVec.getLsbD_extractLsb', getLsbD_pack, hi, decide_true, Bool.true_and]
  repeat' split
  all_goals first | omega | (congr 1; omega)

@[simp] theorem wField_pack : wField (pack op a b w x) = w := by
  apply BitVec.eq_of_getLsbD_eq
  intro i hi
  simp only [wField, BitVec.getLsbD_extractLsb', getLsbD_pack, hi, decide_true, Bool.true_and]
  repeat' split
  all_goals first | omega | (congr 1; omega)

@[simp] theorem xField_pack : xField (pack op a b w x) = x := by
  apply BitVec.eq_of_getLsbD_eq
  intro i hi
  simp only [xField, BitVec.getLsbD_extractLsb', getLsbD_pack, hi, decide_true, Bool.true_and]
  repeat' split
  all_goals first | omega | (congr 1; omega)

/-- A word is the packing of its fields. -/
theorem pack_fields (v : Command) : pack (opField v) (aField v) (bField v) (wField v) (xField v) = v := by
  apply BitVec.eq_of_getLsbD_eq
  intro i hi
  simp only [getLsbD_pack, opField, aField, bField, wField, xField, BitVec.getLsbD_extractLsb']
  repeat' split
  all_goals first
    | (have h : decide (i - 40 < 8) = true := by simpa using (by omega)
       rw [h, Bool.true_and]; congr 1; omega)
    | (have h : decide (i - 36 < 4) = true := by simpa using (by omega)
       rw [h, Bool.true_and]; congr 1; omega)
    | (have h : decide (i - 32 < 4) = true := by simpa using (by omega)
       rw [h, Bool.true_and]; congr 1; omega)
    | (have h : decide (i - 16 < 16) = true := by simpa using (by omega)
       rw [h, Bool.true_and]; congr 1; omega)
    | (have h : decide (i < 16) = true := by simpa using (by omega)
       rw [h, Bool.true_and]; congr 1; omega)
end fields

/-- The halves of `X` are those of the field. -/
theorem xHighField_eq (v : Command) : xHighField v = (xField v).extractLsb' 8 8 := by
  apply BitVec.eq_of_getLsbD_eq
  intro i hi
  simp only [xHighField, xField, BitVec.getLsbD_extractLsb', hi, decide_true, Bool.true_and]
  have h : decide (8 + i < 16) = true := by simpa using (by omega)
  rw [h, Bool.true_and]; congr 1; omega

theorem xLowField_eq (v : Command) : xLowField v = (xField v).extractLsb' 0 8 := by
  apply BitVec.eq_of_getLsbD_eq
  intro i hi
  simp only [xLowField, xField, BitVec.getLsbD_extractLsb', hi, decide_true, Bool.true_and]
  have h : decide (0 + i < 16) = true := by simpa using (by omega)
  rw [h, Bool.true_and]; congr 1; omega

/-- The cycle count overlays `W` and `X`. -/
theorem cycField_eq (v : Command) : cycField v = wField v ++ xField v := by
  apply BitVec.eq_of_getLsbD_eq
  intro i hi
  simp only [cycField, wField, xField, BitVec.getLsbD_extractLsb', BitVec.getLsbD_append, hi, decide_true, Bool.true_and]
  split
  · simp_all
  · have h : decide (i - 16 < 16) = true := by simpa using (by omega)
    rw [h, Bool.true_and]; congr 1; omega

/-! ### 8-bit values and cycle counts in their fields -/

@[simp] theorem low8_low (imm : Byte) : (low8 imm).extractLsb' 0 8 = imm := by
  apply BitVec.eq_of_getLsbD_eq
  intro i hi
  simp only [low8, BitVec.getLsbD_extractLsb', BitVec.getLsbD_append]
  split <;> simp_all

@[simp] theorem low8_high (imm : Byte) : (low8 imm).extractLsb' 8 8 = 0#8 := by
  apply BitVec.eq_of_getLsbD_eq
  intro i hi
  simp only [low8, BitVec.getLsbD_extractLsb', BitVec.getLsbD_append]
  split
  · omega
  · simp

/-- A data value whose high byte is zero is its low byte in `X`. -/
theorem low8_of_high_zero {x : BitVec 16} (h : x.extractLsb' 8 8 = 0#8) : low8 (x.extractLsb' 0 8) = x := by
  apply BitVec.eq_of_getLsbD_eq
  intro i hi
  simp only [low8, BitVec.getLsbD_append, BitVec.getLsbD_extractLsb']
  split
  · simp_all
  · have h2 := congrArg (fun v : BitVec 8 => v.getLsbD (i - 8)) h
    simp only [BitVec.getLsbD_extractLsb', BitVec.getLsbD_zero] at h2 ⊢
    have h3 : decide (i - 8 < 8) = true := by simpa using (by omega)
    rw [h3, Bool.true_and] at h2
    rw [← h2]; congr 1; omega

/-- An `X` whose halves are both zero is zero. -/
theorem xField_zero {v : Command} (hi : xHighField v = 0#8) (lo : xLowField v = 0#8) : xField v = 0#16 := by
  rw [xHighField_eq] at hi
  rw [xLowField_eq] at lo
  rw [← low8_of_high_zero hi, lo]
  rfl

@[simp] theorem cyc_halves (cyc : Cycles) : cycHigh cyc ++ cycLow cyc = cyc := by
  apply BitVec.eq_of_getLsbD_eq
  intro i hi
  simp only [cycHigh, cycLow, BitVec.getLsbD_append, BitVec.getLsbD_extractLsb']
  split
  · simp_all
  · have h : decide (i - 16 < 16) = true := by simpa using (by omega)
    rw [h, Bool.true_and]; congr 1; omega

@[simp] theorem cycHigh_append (w x : BitVec 16) : cycHigh (w ++ x) = w := by
  apply BitVec.eq_of_getLsbD_eq
  intro i hi
  simp only [cycHigh, BitVec.getLsbD_extractLsb', BitVec.getLsbD_append, hi, decide_true, Bool.true_and]
  split
  · omega
  · congr 1; omega

@[simp] theorem cycLow_append (w x : BitVec 16) : cycLow (w ++ x) = x := by
  apply BitVec.eq_of_getLsbD_eq
  intro i hi
  simp only [cycLow, BitVec.getLsbD_extractLsb', BitVec.getLsbD_append, hi, decide_true, Bool.true_and]
  split
  · congr 1; omega
  · omega

/-! ### Ids -/

@[simp] theorem reg8OfId_id (r : Reg8) : reg8OfId r.id = .ok r := by cases r <;> rfl
@[simp] theorem reg16OfId_id (q : Reg16) : reg16OfId q.id = .ok q := by cases q <;> rfl
@[simp] theorem pairOfId_id (p : Pair) : pairOfId p.id = .ok p := by cases p <;> rfl
@[simp] theorem flagOfId_id (f : FlagId) : flagOfId f.id = .ok f := by cases f <;> rfl

theorem id_of_reg8OfId {v : BitVec 4} {r : Reg8} (h : reg8OfId v = .ok r) : r.id = v := by
  have all : ∀ u : BitVec 4, (match reg8OfId u with | .ok q => q.id == u | .error _ => true) = true := by decide
  have this := all v
  rw [h] at this
  simpa using this

theorem id_of_reg16OfId {v : BitVec 4} {r : Reg16} (h : reg16OfId v = .ok r) : r.id = v := by
  have all : ∀ u : BitVec 4, (match reg16OfId u with | .ok q => q.id == u | .error _ => true) = true := by decide
  have this := all v
  rw [h] at this
  simpa using this

theorem id_of_pairOfId {v : BitVec 4} {r : Pair} (h : pairOfId v = .ok r) : r.id = v := by
  have all : ∀ u : BitVec 4, (match pairOfId u with | .ok q => q.id == u | .error _ => true) = true := by decide
  have this := all v
  rw [h] at this
  simpa using this

theorem id_of_flagOfId {v : BitVec 4} {r : FlagId} (h : flagOfId v = .ok r) : r.id = v := by
  have all : ∀ u : BitVec 4, (match flagOfId u with | .ok q => q.id == u | .error _ => true) = true := by decide
  have this := all v
  rw [h] at this
  simpa using this

end Sys2Proof
end

