-- ==== Sys2Proof/Laws/Memory.lean ====
section
/-! SUPPORT. External memory: what a key reads after a store, and that a store keeps the canonical form. -/

namespace Sys2Proof.Machine

/-- A key reads the byte stored to it, and every other key reads as before. -/
theorem Memory.get?_put (m : Memory) (a b : Nat) (v : Byte) :
    (Memory.put m a v).get? b = if b = a then some v else Memory.get? m b := by
  induction m with
  | nil => simp [Memory.put, Memory.get?]
  | cons x rest ih =>
    obtain ⟨k, u⟩ := x
    simp only [Memory.put]
    split
    · simp [Memory.get?]
    · split
      · rename_i h; subst h
        by_cases hb : b = a <;> simp [Memory.get?, hb]
      · by_cases hk : b = k
        · subst hk
          have : b ≠ a := by omega
          simp [Memory.get?, this]
        · simp [Memory.get?, hk, ih]

/-- The keys after a store: the key stored to, and those that were there. -/
theorem Memory.mem_put {m : Memory} {a : Nat} {v : Byte} {x : Host.Cell} (h : x ∈ Memory.put m a v) :
    x = (a, v) ∨ x ∈ m := by
  induction m with
  | nil => simpa [Memory.put] using h
  | cons y rest ih =>
    obtain ⟨k, u⟩ := y
    simp only [Memory.put] at h
    split at h
    · simpa using h
    · split at h
      · rename_i hk; subst hk
        rcases List.mem_cons.1 h with h | h
        · exact .inl h
        · exact .inr (List.mem_cons_of_mem _ h)
      · rcases List.mem_cons.1 h with h | h
        · exact .inr (h ▸ List.mem_cons_self)
        · exact (ih h).imp id (List.mem_cons_of_mem _)

/-- A store to an external key keeps the canonical form. -/
theorem Memory.put_wf {m : Memory} {a : Nat} (v : Byte) (h : Memory.wf m) (ha : externalKey a = true) :
    Memory.wf (Memory.put m a v) := by
  refine ⟨?_, fun x hx => ?_⟩
  · have hp := h.1
    clear h
    induction m with
    | nil => simp [Memory.put]
    | cons y rest ih =>
      obtain ⟨k, u⟩ := y
      obtain ⟨hk, hr⟩ := List.pairwise_cons.1 hp
      simp only [Memory.put]
      split
      · rename_i hlt
        refine List.pairwise_cons.2 ⟨fun z hz => ?_, hp⟩
        rcases List.mem_cons.1 hz with rfl | hz
        · exact hlt
        · exact Nat.lt_trans hlt (hk z hz)
      · split
        · exact List.pairwise_cons.2 ⟨hk, hr⟩
        · refine List.pairwise_cons.2 ⟨fun z hz => ?_, ih hr⟩
          rcases Memory.mem_put hz with rfl | hz
          · show k < a; omega
          · exact hk z hz
  · rcases Memory.mem_put hx with rfl | hx
    · exact ha
    · exact h.2 x hx

/-- Reset memory lists nothing and is canonical. -/
theorem Memory.wf_nil : Memory.wf [] := ⟨List.Pairwise.nil, fun _ h => nomatch h⟩

end Sys2Proof.Machine
end

