-- ==== Sys2Proof/Laws/State.lean ====
section
/-! SUPPORT. One lemma for each field of State and each update: what the update leaves, and what the register accessors
read after it. -/

namespace Sys2Proof.Machine

variable (s : State)

/-! ### respond -/

section
variable (v : Response)
@[simp] theorem respond_regs : (s.respond v).regs = s.regs := rfl
@[simp] theorem respond_fault : (s.respond v).fault = s.fault := rfl
@[simp] theorem respond_acc : (s.respond v).acc = s.acc := rfl
@[simp] theorem respond_win : (s.respond v).win = s.win := rfl
@[simp] theorem respond_mem : (s.respond v).mem = s.mem := rfl
@[simp] theorem respond_pstates : (s.respond v).pstates = s.pstates := rfl
@[simp] theorem respond_cfg : (s.respond v).cfg = s.cfg := rfl
@[simp] theorem respond_inbox : (s.respond v).inbox = s.inbox := rfl
@[simp] theorem respond_extSeq : (s.respond v).extSeq = s.extSeq := rfl
@[simp] theorem respond_memState : (s.respond v).memState = s.memState := rfl
end
@[simp] theorem respond_resp (v : Response) : (s.respond v).resp = some v := rfl

/-! ### writePc -/

section
variable (v : Word)
@[simp] theorem writePc_fault : (s.writePc v).fault = s.fault := rfl
@[simp] theorem writePc_acc : (s.writePc v).acc = s.acc := rfl
@[simp] theorem writePc_win : (s.writePc v).win = s.win := rfl
@[simp] theorem writePc_mem : (s.writePc v).mem = s.mem := rfl
@[simp] theorem writePc_pstates : (s.writePc v).pstates = s.pstates := rfl
@[simp] theorem writePc_cfg : (s.writePc v).cfg = s.cfg := rfl
@[simp] theorem writePc_inbox : (s.writePc v).inbox = s.inbox := rfl
@[simp] theorem writePc_resp : (s.writePc v).resp = s.resp := rfl
@[simp] theorem writePc_extSeq : (s.writePc v).extSeq = s.extSeq := rfl
@[simp] theorem writePc_memState : (s.writePc v).memState = s.memState := rfl
end

/-! ### writeSp -/

section
variable (v : Word)
@[simp] theorem writeSp_fault : (s.writeSp v).fault = s.fault := rfl
@[simp] theorem writeSp_acc : (s.writeSp v).acc = s.acc := rfl
@[simp] theorem writeSp_win : (s.writeSp v).win = s.win := rfl
@[simp] theorem writeSp_mem : (s.writeSp v).mem = s.mem := rfl
@[simp] theorem writeSp_pstates : (s.writeSp v).pstates = s.pstates := rfl
@[simp] theorem writeSp_cfg : (s.writeSp v).cfg = s.cfg := rfl
@[simp] theorem writeSp_inbox : (s.writeSp v).inbox = s.inbox := rfl
@[simp] theorem writeSp_resp : (s.writeSp v).resp = s.resp := rfl
@[simp] theorem writeSp_extSeq : (s.writeSp v).extSeq = s.extSeq := rfl
@[simp] theorem writeSp_memState : (s.writeSp v).memState = s.memState := rfl
end

/-! ### writeReg8 -/

section
variable (r : Reg8) (v : Byte)
@[simp] theorem writeReg8_fault : (s.writeReg8 r v).fault = s.fault := by cases r <;> rfl
@[simp] theorem writeReg8_acc : (s.writeReg8 r v).acc = s.acc := by cases r <;> rfl
@[simp] theorem writeReg8_win : (s.writeReg8 r v).win = s.win := by cases r <;> rfl
@[simp] theorem writeReg8_mem : (s.writeReg8 r v).mem = s.mem := by cases r <;> rfl
@[simp] theorem writeReg8_pstates : (s.writeReg8 r v).pstates = s.pstates := by cases r <;> rfl
@[simp] theorem writeReg8_cfg : (s.writeReg8 r v).cfg = s.cfg := by cases r <;> rfl
@[simp] theorem writeReg8_inbox : (s.writeReg8 r v).inbox = s.inbox := by cases r <;> rfl
@[simp] theorem writeReg8_resp : (s.writeReg8 r v).resp = s.resp := by cases r <;> rfl
@[simp] theorem writeReg8_extSeq : (s.writeReg8 r v).extSeq = s.extSeq := by cases r <;> rfl
@[simp] theorem writeReg8_memState : (s.writeReg8 r v).memState = s.memState := by cases r <;> rfl
end

/-! ### writeReg16 -/

section
variable (q : Reg16) (v : Word)
@[simp] theorem writeReg16_fault : (s.writeReg16 q v).fault = s.fault := by cases q <;> rfl
@[simp] theorem writeReg16_acc : (s.writeReg16 q v).acc = s.acc := by cases q <;> rfl
@[simp] theorem writeReg16_win : (s.writeReg16 q v).win = s.win := by cases q <;> rfl
@[simp] theorem writeReg16_mem : (s.writeReg16 q v).mem = s.mem := by cases q <;> rfl
@[simp] theorem writeReg16_pstates : (s.writeReg16 q v).pstates = s.pstates := by cases q <;> rfl
@[simp] theorem writeReg16_cfg : (s.writeReg16 q v).cfg = s.cfg := by cases q <;> rfl
@[simp] theorem writeReg16_inbox : (s.writeReg16 q v).inbox = s.inbox := by cases q <;> rfl
@[simp] theorem writeReg16_resp : (s.writeReg16 q v).resp = s.resp := by cases q <;> rfl
@[simp] theorem writeReg16_extSeq : (s.writeReg16 q v).extSeq = s.extSeq := by cases q <;> rfl
@[simp] theorem writeReg16_memState : (s.writeReg16 q v).memState = s.memState := by cases q <;> rfl
end

/-! ### writePair -/

section
variable (p : Pair) (v : Word)
@[simp] theorem writePair_fault : (s.writePair p v).fault = s.fault := by simp [State.writePair]
@[simp] theorem writePair_acc : (s.writePair p v).acc = s.acc := by simp [State.writePair]
@[simp] theorem writePair_win : (s.writePair p v).win = s.win := by simp [State.writePair]
@[simp] theorem writePair_mem : (s.writePair p v).mem = s.mem := by simp [State.writePair]
@[simp] theorem writePair_pstates : (s.writePair p v).pstates = s.pstates := by simp [State.writePair]
@[simp] theorem writePair_cfg : (s.writePair p v).cfg = s.cfg := by simp [State.writePair]
@[simp] theorem writePair_inbox : (s.writePair p v).inbox = s.inbox := by simp [State.writePair]
@[simp] theorem writePair_resp : (s.writePair p v).resp = s.resp := by simp [State.writePair]
@[simp] theorem writePair_extSeq : (s.writePair p v).extSeq = s.extSeq := by simp [State.writePair]
@[simp] theorem writePair_memState : (s.writePair p v).memState = s.memState := by simp [State.writePair]
end

/-! ### writeFlag -/

section
variable (f : FlagId) (b : Bool)
@[simp] theorem writeFlag_fault : (s.writeFlag f b).fault = s.fault := rfl
@[simp] theorem writeFlag_acc : (s.writeFlag f b).acc = s.acc := rfl
@[simp] theorem writeFlag_win : (s.writeFlag f b).win = s.win := rfl
@[simp] theorem writeFlag_mem : (s.writeFlag f b).mem = s.mem := rfl
@[simp] theorem writeFlag_pstates : (s.writeFlag f b).pstates = s.pstates := rfl
@[simp] theorem writeFlag_cfg : (s.writeFlag f b).cfg = s.cfg := rfl
@[simp] theorem writeFlag_inbox : (s.writeFlag f b).inbox = s.inbox := rfl
@[simp] theorem writeFlag_resp : (s.writeFlag f b).resp = s.resp := rfl
@[simp] theorem writeFlag_extSeq : (s.writeFlag f b).extSeq = s.extSeq := rfl
@[simp] theorem writeFlag_memState : (s.writeFlag f b).memState = s.memState := rfl
end

/-! ### writeAlu -/

section
variable (r : AluResult)
@[simp] theorem writeAlu_fault : (s.writeAlu r).fault = s.fault := rfl
@[simp] theorem writeAlu_acc : (s.writeAlu r).acc = s.acc := rfl
@[simp] theorem writeAlu_win : (s.writeAlu r).win = s.win := rfl
@[simp] theorem writeAlu_mem : (s.writeAlu r).mem = s.mem := rfl
@[simp] theorem writeAlu_pstates : (s.writeAlu r).pstates = s.pstates := rfl
@[simp] theorem writeAlu_cfg : (s.writeAlu r).cfg = s.cfg := rfl
@[simp] theorem writeAlu_inbox : (s.writeAlu r).inbox = s.inbox := rfl
@[simp] theorem writeAlu_resp : (s.writeAlu r).resp = s.resp := rfl
@[simp] theorem writeAlu_extSeq : (s.writeAlu r).extSeq = s.extSeq := rfl
@[simp] theorem writeAlu_memState : (s.writeAlu r).memState = s.memState := rfl
end

/-! ### ioDirectWrite -/

section
variable (o : Offset) (v : Byte)
@[simp] theorem ioDirectWrite_regs : (s.ioDirectWrite o v).regs = s.regs := rfl
@[simp] theorem ioDirectWrite_fault : (s.ioDirectWrite o v).fault = s.fault := rfl
@[simp] theorem ioDirectWrite_acc : (s.ioDirectWrite o v).acc = s.acc := rfl
@[simp] theorem ioDirectWrite_mem : (s.ioDirectWrite o v).mem = s.mem := rfl
@[simp] theorem ioDirectWrite_pstates : (s.ioDirectWrite o v).pstates = s.pstates := rfl
@[simp] theorem ioDirectWrite_cfg : (s.ioDirectWrite o v).cfg = s.cfg := rfl
@[simp] theorem ioDirectWrite_inbox : (s.ioDirectWrite o v).inbox = s.inbox := rfl
@[simp] theorem ioDirectWrite_resp : (s.ioDirectWrite o v).resp = s.resp := rfl
@[simp] theorem ioDirectWrite_extSeq : (s.ioDirectWrite o v).extSeq = s.extSeq := rfl
@[simp] theorem ioDirectWrite_memState : (s.ioDirectWrite o v).memState = s.memState := rfl
end
@[simp] theorem ioDirectWrite_win (o : Offset) (v : Byte) : (s.ioDirectWrite o v).win = s.win.set o v := rfl

/-! ### raiseViolation -/

section
variable (c : Violation)
@[simp] theorem raiseViolation_regs : (s.raiseViolation c).regs = s.regs := rfl
@[simp] theorem raiseViolation_acc : (s.raiseViolation c).acc = s.acc := rfl
@[simp] theorem raiseViolation_win : (s.raiseViolation c).win = s.win := rfl
@[simp] theorem raiseViolation_mem : (s.raiseViolation c).mem = s.mem := rfl
@[simp] theorem raiseViolation_pstates : (s.raiseViolation c).pstates = s.pstates := rfl
@[simp] theorem raiseViolation_cfg : (s.raiseViolation c).cfg = s.cfg := rfl
@[simp] theorem raiseViolation_inbox : (s.raiseViolation c).inbox = s.inbox := rfl
@[simp] theorem raiseViolation_extSeq : (s.raiseViolation c).extSeq = s.extSeq := rfl
@[simp] theorem raiseViolation_memState : (s.raiseViolation c).memState = s.memState := rfl
end
@[simp] theorem raiseViolation_fault (c : Violation) : (s.raiseViolation c).fault = some c := rfl
@[simp] theorem raiseViolation_resp (c : Violation) : (s.raiseViolation c).resp = some (.fault c) := rfl

/-! ### refuseStopped -/

section
variable (c : Violation)
@[simp] theorem refuseStopped_regs : (s.refuseStopped c).regs = s.regs := rfl
@[simp] theorem refuseStopped_fault : (s.refuseStopped c).fault = s.fault := rfl
@[simp] theorem refuseStopped_acc : (s.refuseStopped c).acc = s.acc := rfl
@[simp] theorem refuseStopped_win : (s.refuseStopped c).win = s.win := rfl
@[simp] theorem refuseStopped_mem : (s.refuseStopped c).mem = s.mem := rfl
@[simp] theorem refuseStopped_pstates : (s.refuseStopped c).pstates = s.pstates := rfl
@[simp] theorem refuseStopped_cfg : (s.refuseStopped c).cfg = s.cfg := rfl
@[simp] theorem refuseStopped_inbox : (s.refuseStopped c).inbox = s.inbox := rfl
@[simp] theorem refuseStopped_extSeq : (s.refuseStopped c).extSeq = s.extSeq := rfl
@[simp] theorem refuseStopped_memState : (s.refuseStopped c).memState = s.memState := rfl
end
@[simp] theorem refuseStopped_resp (c : Violation) : (s.refuseStopped c).resp = some (.fault c) := rfl

/-! ### resetRegisters -/

@[simp] theorem resetRegisters_fault : (s.resetRegisters).fault = s.fault := rfl
@[simp] theorem resetRegisters_acc : (s.resetRegisters).acc = s.acc := rfl
@[simp] theorem resetRegisters_win : (s.resetRegisters).win = s.win := rfl
@[simp] theorem resetRegisters_mem : (s.resetRegisters).mem = s.mem := rfl
@[simp] theorem resetRegisters_pstates : (s.resetRegisters).pstates = s.pstates := rfl
@[simp] theorem resetRegisters_cfg : (s.resetRegisters).cfg = s.cfg := rfl
@[simp] theorem resetRegisters_inbox : (s.resetRegisters).inbox = s.inbox := rfl
@[simp] theorem resetRegisters_resp : (s.resetRegisters).resp = s.resp := rfl
@[simp] theorem resetRegisters_extSeq : (s.resetRegisters).extSeq = s.extSeq := rfl
@[simp] theorem resetRegisters_memState : (s.resetRegisters).memState = s.memState := rfl

/-! ### What the accessors read -/

/-- Masking with F's high nibble twice is masking once. -/
theorem high_nibble_twice (v : Byte) : v &&& 0xF0#8 &&& 0xF0#8 = v &&& 0xF0#8 := by
  rw [BitVec.and_assoc]; rfl

/-- The accessors look at the register file alone. -/
theorem readReg8_of_regs {s t : State} (h : t.regs = s.regs) (r : Reg8) : t.readReg8 r = s.readReg8 r := by
  cases r <;> simp [State.readReg8, h]

theorem readReg16_of_regs {s t : State} (h : t.regs = s.regs) (q : Reg16) : t.readReg16 q = s.readReg16 q := by
  cases q <;> simp [State.readReg16, readReg8_of_regs h, h]

theorem readPair_of_regs {s t : State} (h : t.regs = s.regs) (p : Pair) : t.readPair p = s.readPair p :=
  readReg16_of_regs h _

theorem readFlag_of_regs {s t : State} (h : t.regs = s.regs) (f : FlagId) : t.readFlag f = s.readFlag f := by
  simp [State.readFlag, readReg8_of_regs h]

/-- A register reads what was written to it, F the high nibble of it (R21, R32), and the others read as before. -/
@[simp] theorem readReg8_writeReg8 (r q : Reg8) (v : Byte) :
    (s.writeReg8 r v).readReg8 q = if q = r then (if r = .f then v &&& 0xF0#8 else v) else s.readReg8 q := by
  cases r <;> cases q <;> simp [State.writeReg8, State.readReg8, high_nibble_twice]

@[simp] theorem writeReg8_pc (r : Reg8) (v : Byte) : (s.writeReg8 r v).regs.pc = s.regs.pc := by cases r <;> rfl
@[simp] theorem writeReg8_sp (r : Reg8) (v : Byte) : (s.writeReg8 r v).regs.sp = s.regs.sp := by cases r <;> rfl

@[simp] theorem readReg8_respond (v : Response) (r : Reg8) : (s.respond v).readReg8 r = s.readReg8 r := rfl
@[simp] theorem readReg16_respond (v : Response) (q : Reg16) : (s.respond v).readReg16 q = s.readReg16 q := by
  cases q <;> rfl
@[simp] theorem readPair_respond (v : Response) (p : Pair) : (s.respond v).readPair p = s.readPair p := by
  cases p <;> rfl
@[simp] theorem readFlag_respond (v : Response) (f : FlagId) : (s.respond v).readFlag f = s.readFlag f := rfl

@[simp] theorem readReg8_writePc (v : Word) (r : Reg8) : (s.writePc v).readReg8 r = s.readReg8 r := by
  cases r <;> rfl
@[simp] theorem readReg8_writeSp (v : Word) (r : Reg8) : (s.writeSp v).readReg8 r = s.readReg8 r := by
  cases r <;> rfl
@[simp] theorem writePc_pc (v : Word) : (s.writePc v).regs.pc = v := rfl
@[simp] theorem writePc_sp (v : Word) : (s.writePc v).regs.sp = s.regs.sp := rfl
@[simp] theorem writeSp_pc (v : Word) : (s.writeSp v).regs.pc = s.regs.pc := rfl
@[simp] theorem writeSp_sp (v : Word) : (s.writeSp v).regs.sp = v := rfl

/-- A word is the join of its bytes, and the bytes of a join are its parts. -/
@[simp] theorem joinBytes_halves (v : Word) : joinBytes (highByte v) (lowByte v) = v := by
  apply BitVec.eq_of_getLsbD_eq
  intro i hi
  simp only [joinBytes, highByte, lowByte, BitVec.getLsbD_append, BitVec.getLsbD_extractLsb']
  split
  · simp_all
  · have h : decide (i - 8 < 8) = true := by simpa using (by omega)
    rw [h, Bool.true_and]; congr 1; omega

@[simp] theorem highByte_joinBytes (hi lo : Byte) : highByte (joinBytes hi lo) = hi := by
  apply BitVec.eq_of_getLsbD_eq
  intro i h
  simp only [joinBytes, highByte, BitVec.getLsbD_append, BitVec.getLsbD_extractLsb', h, decide_true, Bool.true_and]
  split
  · omega
  · congr 1; omega

@[simp] theorem lowByte_joinBytes (hi lo : Byte) : lowByte (joinBytes hi lo) = lo := by
  apply BitVec.eq_of_getLsbD_eq
  intro i h
  simp only [joinBytes, lowByte, BitVec.getLsbD_append, BitVec.getLsbD_extractLsb', h, decide_true, Bool.true_and]
  split
  · congr 1; omega
  · omega

/-- A 16-bit register reads the word written to it, and the others read as before (R24). -/
@[simp] theorem readReg16_writeReg16 (q q' : Reg16) (v : Word) :
    (s.writeReg16 q v).readReg16 q' = if q' = q then v else s.readReg16 q' := by
  cases q <;> cases q' <;> simp [State.writeReg16, State.readReg16]

theorem readPair_writePair (p p' : Pair) (v : Word) :
    (s.writePair p v).readPair p' = if p' = p then v else s.readPair p' := by
  cases p <;> cases p' <;> simp [State.writePair, State.readPair, pairReg]

/-- The bit of a flag in a packed byte (R30). -/
theorem packFlags_bit (z n h c : Bool) (f : FlagId) :
    (packFlags z n h c &&& 0xF0#8).getLsbD (flagBit f) = (match f with | .z => z | .n => n | .h => h | .c => c) := by
  revert z n h c; cases f <;> decide

/-- After an ALU result is written, A is its value, each flag is its flag, and the other registers read as before. -/
@[simp] theorem readReg8_writeAlu_a (r : AluResult) : (s.writeAlu r).readReg8 .a = r.value := by
  simp [State.writeAlu]

@[simp] theorem readFlag_writeAlu (r : AluResult) (f : FlagId) :
    (s.writeAlu r).readFlag f = (match f with | .z => r.z | .n => r.n | .h => r.h | .c => r.c) := by
  simp only [State.writeAlu, State.readFlag, readReg8_writeReg8, if_true]
  exact packFlags_bit ..

theorem readReg8_writeAlu_other (r : AluResult) {q : Reg8} (ha : q ≠ .a) (hf : q ≠ .f) :
    (s.writeAlu r).readReg8 q = s.readReg8 q := by
  simp [State.writeAlu, ha, hf]

@[simp] theorem writeAlu_pc (r : AluResult) : (s.writeAlu r).regs.pc = s.regs.pc := rfl
@[simp] theorem writeAlu_sp (r : AluResult) : (s.writeAlu r).regs.sp = s.regs.sp := rfl

/-- After a flag is written it reads as written, and the others read as before (R31). -/
theorem readFlag_writeFlag (f g : FlagId) (b : Bool) :
    (s.writeFlag f b).readFlag g = if g = f then b else s.readFlag g := by
  have key : ∀ x : Byte, ((if b then x ||| flagMask f else x &&& ~~~ flagMask f) &&& 0xF0#8).getLsbD (flagBit g) =
      if g = f then b else (x &&& 0xF0#8).getLsbD (flagBit g) := by
    cases f <;> cases g <;> cases b <;> decide
  have self : s.readReg8 .f &&& 0xF0#8 = s.readReg8 .f := high_nibble_twice _
  simp only [State.writeFlag, State.readFlag, readReg8_writeReg8, if_true]
  rw [key, self]

theorem readReg8_writeFlag_other (f : FlagId) (b : Bool) {q : Reg8} (h : q ≠ .f) :
    (s.writeFlag f b).readReg8 q = s.readReg8 q := by
  simp [State.writeFlag, h]

end Sys2Proof.Machine
end

