-- ==== Sys2Proof/Laws/Ops.lean ====
section
/-! SUPPORT. What each shared operation can do, said once: the address decoder, the hook calls, the memory primitives and
the coordinator's primitives. -/

namespace Sys2Proof.Machine

variable (E : Env) (s : State)

/-! ### The address decoder (R55) -/

theorem windowOffset?_eq_some {a : Word} {o : Offset} : windowOffset? a = some o ↔ a.toNat = 0xFF00 + o.val := by
  unfold windowOffset?
  have ho := o.isLt
  by_cases h : 0xFF00 ≤ a.toNat ∧ a.toNat ≤ 0xFF4B
  · rw [dif_pos h, Option.some_inj, Fin.ext_iff]
    show a.toNat - 0xFF00 = o.val ↔ _
    omega
  · rw [dif_neg h]
    constructor
    · intro e; simp at e
    · intro e; omega

theorem windowOffset?_eq_none {a : Word} : windowOffset? a = none ↔ ¬ (0xFF00 ≤ a.toNat ∧ a.toNat ≤ 0xFF4B) := by
  unfold windowOffset?
  split <;> simp_all

theorem windowOffset?_isSome {a : Word} (h : 0xFF00 ≤ a.toNat ∧ a.toNat ≤ 0xFF4B) : ∃ o, windowOffset? a = some o :=
  ⟨⟨a.toNat - 0xFF00, by omega⟩, windowOffset?_eq_some.2 (by simp only []; omega)⟩

/-- Two addresses with one window offset are one address. -/
theorem windowOffset?_inj {a b : Word} {o : Offset} (ha : windowOffset? a = some o) (hb : windowOffset? b = some o) :
    a = b := by
  have h1 := windowOffset?_eq_some.1 ha
  have h2 := windowOffset?_eq_some.1 hb
  exact BitVec.eq_of_toNat_eq (by omega)

/-- An address outside the window is a key of external memory. -/
theorem externalKey_of_none {a : Word} (h : windowOffset? a = none) : externalKey a.toNat = true := by
  have h1 := windowOffset?_eq_none.1 h
  have h2 := a.isLt
  have h3 : a.toNat < 65536 := h2
  unfold externalKey
  rw [decide_eq_true h3, Bool.true_and, ← Bool.decide_and, Bool.not_eq_true', decide_eq_false_iff_not]
  exact h1

/-! ### Hook calls reach the window and the peripherals' states alone (R241) -/

section hooks
variable (hook : PeripheralHooks → PState → Window → Ext → PState × Window)

@[simp] theorem runHook_regs (i : Nat) : (s.runHook E i hook).regs = s.regs := by
  unfold State.runHook; split <;> rfl
@[simp] theorem runHook_fault (i : Nat) : (s.runHook E i hook).fault = s.fault := by
  unfold State.runHook; split <;> rfl
@[simp] theorem runHook_acc (i : Nat) : (s.runHook E i hook).acc = s.acc := by
  unfold State.runHook; split <;> rfl
@[simp] theorem runHook_mem (i : Nat) : (s.runHook E i hook).mem = s.mem := by
  unfold State.runHook; split <;> rfl
@[simp] theorem runHook_memState (i : Nat) : (s.runHook E i hook).memState = s.memState := by
  unfold State.runHook; split <;> rfl
@[simp] theorem runHook_cfg (i : Nat) : (s.runHook E i hook).cfg = s.cfg := by
  unfold State.runHook; split <;> rfl
@[simp] theorem runHook_inbox (i : Nat) : (s.runHook E i hook).inbox = s.inbox := by
  unfold State.runHook; split <;> rfl
@[simp] theorem runHook_resp (i : Nat) : (s.runHook E i hook).resp = s.resp := by
  unfold State.runHook; split <;> rfl

/-- There is still one state for each peripheral after a hook. -/
@[simp] theorem runHook_pstates_length (i : Nat) : (s.runHook E i hook).pstates.length = s.pstates.length := by
  unfold State.runHook; split <;> simp

/-- A fold of hook calls keeps whatever each call keeps. -/
theorem foldl_runHook {α : Type} (field : State → α) (h : ∀ t i, field (t.runHook E i hook) = field t)
    (l : List Nat) (t : State) : field (l.foldl (fun u i => u.runHook E i hook) t) = field t := by
  induction l generalizing t with
  | nil => rfl
  | cons i rest ih => rw [List.foldl_cons, ih, h]

@[simp] theorem forEachPeripheral_regs : (s.forEachPeripheral E hook).regs = s.regs :=
  foldl_runHook E hook State.regs (fun t i => runHook_regs E t hook i) _ _
@[simp] theorem forEachPeripheral_fault : (s.forEachPeripheral E hook).fault = s.fault :=
  foldl_runHook E hook State.fault (fun t i => runHook_fault E t hook i) _ _
@[simp] theorem forEachPeripheral_acc : (s.forEachPeripheral E hook).acc = s.acc :=
  foldl_runHook E hook State.acc (fun t i => runHook_acc E t hook i) _ _
@[simp] theorem forEachPeripheral_mem : (s.forEachPeripheral E hook).mem = s.mem :=
  foldl_runHook E hook State.mem (fun t i => runHook_mem E t hook i) _ _
@[simp] theorem forEachPeripheral_memState : (s.forEachPeripheral E hook).memState = s.memState :=
  foldl_runHook E hook State.memState (fun t i => runHook_memState E t hook i) _ _
@[simp] theorem forEachPeripheral_cfg : (s.forEachPeripheral E hook).cfg = s.cfg :=
  foldl_runHook E hook State.cfg (fun t i => runHook_cfg E t hook i) _ _
@[simp] theorem forEachPeripheral_inbox : (s.forEachPeripheral E hook).inbox = s.inbox :=
  foldl_runHook E hook State.inbox (fun t i => runHook_inbox E t hook i) _ _
@[simp] theorem forEachPeripheral_resp : (s.forEachPeripheral E hook).resp = s.resp :=
  foldl_runHook E hook State.resp (fun t i => runHook_resp E t hook i) _ _
@[simp] theorem forEachPeripheral_pstates_length :
    (s.forEachPeripheral E hook).pstates.length = s.pstates.length :=
  foldl_runHook E hook (fun t => t.pstates.length) (fun t i => runHook_pstates_length E t hook i) _ _
end hooks

/-! ### The coordinator's primitives -/

@[simp] theorem ioTick_regs (n : Cycles) : (s.ioTick E n).regs = s.regs := by simp [State.ioTick]
@[simp] theorem ioTick_fault (n : Cycles) : (s.ioTick E n).fault = s.fault := by simp [State.ioTick]
@[simp] theorem ioTick_acc (n : Cycles) : (s.ioTick E n).acc = s.acc := by simp [State.ioTick]
@[simp] theorem ioTick_mem (n : Cycles) : (s.ioTick E n).mem = s.mem := by simp [State.ioTick]
@[simp] theorem ioTick_memState (n : Cycles) : (s.ioTick E n).memState = s.memState := by simp [State.ioTick]
@[simp] theorem ioTick_cfg (n : Cycles) : (s.ioTick E n).cfg = s.cfg := by simp [State.ioTick]
@[simp] theorem ioTick_inbox (n : Cycles) : (s.ioTick E n).inbox = s.inbox := by simp [State.ioTick]
@[simp] theorem ioTick_resp (n : Cycles) : (s.ioTick E n).resp = s.resp := by simp [State.ioTick]
@[simp] theorem ioTick_pstates_length (n : Cycles) : (s.ioTick E n).pstates.length = s.pstates.length := by
  simp [State.ioTick]

@[simp] theorem ioSync_regs (n : Cycles) : (s.ioSync E n).regs = s.regs := by simp [State.ioSync]
@[simp] theorem ioSync_fault (n : Cycles) : (s.ioSync E n).fault = s.fault := by simp [State.ioSync]
@[simp] theorem ioSync_mem (n : Cycles) : (s.ioSync E n).mem = s.mem := by simp [State.ioSync]
@[simp] theorem ioSync_memState (n : Cycles) : (s.ioSync E n).memState = s.memState := by simp [State.ioSync]
@[simp] theorem ioSync_cfg (n : Cycles) : (s.ioSync E n).cfg = s.cfg := by simp [State.ioSync]
@[simp] theorem ioSync_inbox (n : Cycles) : (s.ioSync E n).inbox = s.inbox := by simp [State.ioSync]
@[simp] theorem ioSync_resp (n : Cycles) : (s.ioSync E n).resp = s.resp := by simp [State.ioSync]
@[simp] theorem ioSync_acc (n : Cycles) : (s.ioSync E n).acc = s.acc + n.toNat := by simp [State.ioSync]
@[simp] theorem ioSync_pstates_length (n : Cycles) : (s.ioSync E n).pstates.length = s.pstates.length := by
  simp [State.ioSync]

@[simp] theorem ioReset_regs : (s.ioReset E).regs = s.regs := by simp [State.ioReset]
@[simp] theorem ioReset_fault : (s.ioReset E).fault = s.fault := by simp [State.ioReset]
@[simp] theorem ioReset_mem : (s.ioReset E).mem = s.mem := by simp [State.ioReset]
@[simp] theorem ioReset_memState : (s.ioReset E).memState = s.memState := by simp [State.ioReset]
@[simp] theorem ioReset_cfg : (s.ioReset E).cfg = s.cfg := by simp [State.ioReset]
@[simp] theorem ioReset_inbox : (s.ioReset E).inbox = s.inbox := by simp [State.ioReset]
@[simp] theorem ioReset_resp : (s.ioReset E).resp = s.resp := by simp [State.ioReset]
@[simp] theorem ioReset_acc : (s.ioReset E).acc = 0 := rfl
@[simp] theorem ioReset_pstates_length : (s.ioReset E).pstates.length = s.pstates.length := by
  simp [State.ioReset]

@[simp] theorem ioDrain_regs : s.ioDrain.2.regs = s.regs := rfl
@[simp] theorem ioDrain_fault : s.ioDrain.2.fault = s.fault := rfl
@[simp] theorem ioDrain_acc : s.ioDrain.2.acc = 0 := rfl
@[simp] theorem ioDrain_win : s.ioDrain.2.win = s.win := rfl
@[simp] theorem ioDrain_mem : s.ioDrain.2.mem = s.mem := rfl
@[simp] theorem ioDrain_memState : s.ioDrain.2.memState = s.memState := rfl
@[simp] theorem ioDrain_pstates : s.ioDrain.2.pstates = s.pstates := rfl
@[simp] theorem ioDrain_cfg : s.ioDrain.2.cfg = s.cfg := rfl
@[simp] theorem ioDrain_inbox : s.ioDrain.2.inbox = s.inbox := rfl

@[simp] theorem ioRead_regs (a : Word) (o : Offset) : (s.ioRead E a o |>.2).regs = s.regs := by
  unfold State.ioRead; split <;> simp
@[simp] theorem ioRead_fault (a : Word) (o : Offset) : (s.ioRead E a o |>.2).fault = s.fault := by
  unfold State.ioRead; split <;> simp
@[simp] theorem ioRead_acc (a : Word) (o : Offset) : (s.ioRead E a o |>.2).acc = s.acc := by
  unfold State.ioRead; split <;> simp
@[simp] theorem ioRead_mem (a : Word) (o : Offset) : (s.ioRead E a o |>.2).mem = s.mem := by
  unfold State.ioRead; split <;> simp
@[simp] theorem ioRead_memState (a : Word) (o : Offset) : (s.ioRead E a o |>.2).memState = s.memState := by
  unfold State.ioRead; split <;> simp
@[simp] theorem ioRead_cfg (a : Word) (o : Offset) : (s.ioRead E a o |>.2).cfg = s.cfg := by
  unfold State.ioRead; split <;> simp
@[simp] theorem ioRead_inbox (a : Word) (o : Offset) : (s.ioRead E a o |>.2).inbox = s.inbox := by
  unfold State.ioRead; split <;> simp
@[simp] theorem ioRead_resp (a : Word) (o : Offset) : (s.ioRead E a o |>.2).resp = s.resp := by
  unfold State.ioRead; split <;> simp
@[simp] theorem ioRead_pstates_length (a : Word) (o : Offset) :
    (s.ioRead E a o).2.pstates.length = s.pstates.length := by
  unfold State.ioRead; split <;> simp

@[simp] theorem ioWrite_regs (a : Word) (o : Offset) (v : Byte) : (s.ioWrite E a o v).regs = s.regs := by
  unfold State.ioWrite; split <;> simp
@[simp] theorem ioWrite_fault (a : Word) (o : Offset) (v : Byte) : (s.ioWrite E a o v).fault = s.fault := by
  unfold State.ioWrite; split <;> simp
@[simp] theorem ioWrite_acc (a : Word) (o : Offset) (v : Byte) : (s.ioWrite E a o v).acc = s.acc := by
  unfold State.ioWrite; split <;> simp
@[simp] theorem ioWrite_mem (a : Word) (o : Offset) (v : Byte) : (s.ioWrite E a o v).mem = s.mem := by
  unfold State.ioWrite; split <;> simp
@[simp] theorem ioWrite_memState (a : Word) (o : Offset) (v : Byte) : (s.ioWrite E a o v).memState = s.memState := by
  unfold State.ioWrite; split <;> simp
@[simp] theorem ioWrite_cfg (a : Word) (o : Offset) (v : Byte) : (s.ioWrite E a o v).cfg = s.cfg := by
  unfold State.ioWrite; split <;> simp
@[simp] theorem ioWrite_inbox (a : Word) (o : Offset) (v : Byte) : (s.ioWrite E a o v).inbox = s.inbox := by
  unfold State.ioWrite; split <;> simp
@[simp] theorem ioWrite_resp (a : Word) (o : Offset) (v : Byte) : (s.ioWrite E a o v).resp = s.resp := by
  unfold State.ioWrite; split <;> simp
@[simp] theorem ioWrite_pstates_length (a : Word) (o : Offset) (v : Byte) :
    (s.ioWrite E a o v).pstates.length = s.pstates.length := by
  unfold State.ioWrite; split <;> simp

/-! ### External memory (R56) -/

@[simp] theorem extRead_regs (a : Word) : (s.extRead E a).2.regs = s.regs := by unfold State.extRead; split <;> rfl
@[simp] theorem extRead_fault (a : Word) : (s.extRead E a).2.fault = s.fault := by unfold State.extRead; split <;> rfl
@[simp] theorem extRead_acc (a : Word) : (s.extRead E a).2.acc = s.acc := by unfold State.extRead; split <;> rfl
@[simp] theorem extRead_win (a : Word) : (s.extRead E a).2.win = s.win := by unfold State.extRead; split <;> rfl
@[simp] theorem extRead_mem (a : Word) : (s.extRead E a).2.mem = s.mem := by unfold State.extRead; split <;> rfl
@[simp] theorem extRead_cfg (a : Word) : (s.extRead E a).2.cfg = s.cfg := by unfold State.extRead; split <;> rfl
@[simp] theorem extRead_inbox (a : Word) : (s.extRead E a).2.inbox = s.inbox := by unfold State.extRead; split <;> rfl
@[simp] theorem extRead_resp (a : Word) : (s.extRead E a).2.resp = s.resp := by unfold State.extRead; split <;> rfl
@[simp] theorem extRead_pstates (a : Word) : (s.extRead E a).2.pstates = s.pstates := by unfold State.extRead; split <;> rfl
@[simp] theorem extRead_extSeq (a : Word) : (s.extRead E a).2.extSeq = s.extSeq := by unfold State.extRead; split <;> rfl

@[simp] theorem extWrite_regs (a : Word) (v : Byte) : (s.extWrite E a v).regs = s.regs := by
  unfold State.extWrite; split <;> rfl
@[simp] theorem extWrite_fault (a : Word) (v : Byte) : (s.extWrite E a v).fault = s.fault := by
  unfold State.extWrite; split <;> rfl
@[simp] theorem extWrite_acc (a : Word) (v : Byte) : (s.extWrite E a v).acc = s.acc := by
  unfold State.extWrite; split <;> rfl
@[simp] theorem extWrite_win (a : Word) (v : Byte) : (s.extWrite E a v).win = s.win := by
  unfold State.extWrite; split <;> rfl
@[simp] theorem extWrite_cfg (a : Word) (v : Byte) : (s.extWrite E a v).cfg = s.cfg := by
  unfold State.extWrite; split <;> rfl
@[simp] theorem extWrite_inbox (a : Word) (v : Byte) : (s.extWrite E a v).inbox = s.inbox := by
  unfold State.extWrite; split <;> rfl
@[simp] theorem extWrite_resp (a : Word) (v : Byte) : (s.extWrite E a v).resp = s.resp := by
  unfold State.extWrite; split <;> rfl
@[simp] theorem extWrite_pstates (a : Word) (v : Byte) : (s.extWrite E a v).pstates = s.pstates := by
  unfold State.extWrite; split <;> rfl
@[simp] theorem extWrite_extSeq (a : Word) (v : Byte) : (s.extWrite E a v).extSeq = s.extSeq := by
  unfold State.extWrite; split <;> rfl

/-- A read of the flat RAM answers the byte last written, or the free value, and changes nothing. -/
theorem extRead_flat {s : State} (h : s.cfg.extMem = .flatRam) (a : Word) :
    s.extRead E a = ((s.mem.get? a.toNat).getD (E.extInit a), s) := by unfold State.extRead; rw [h]

/-- A store to the flat RAM puts the byte. -/
theorem extWrite_flat {s : State} (h : s.cfg.extMem = .flatRam) (a : Word) (v : Byte) :
    s.extWrite E a v = { s with mem := s.mem.put a.toNat v } := by unfold State.extWrite; rw [h]

/-- A read of another memory is its read operation. -/
theorem extRead_other {s : State} {k : Nat} (h : s.cfg.extMem = .other k) (a : Word) :
    s.extRead E a = (((E.extMems k).read s.memState a).1,
      { s with memState := ((E.extMems k).read s.memState a).2 }) := by unfold State.extRead; rw [h]

/-- A store to another memory is its write operation. -/
theorem extWrite_other {s : State} {k : Nat} (h : s.cfg.extMem = .other k) (a : Word) (v : Byte) :
    s.extWrite E a v = { s with memState := (E.extMems k).write s.memState a v } := by unfold State.extWrite; rw [h]

/-- A store keeps the flat RAM's list canonical, in every instance. -/
theorem extWrite_wf {a : Word} (v : Byte) (h : s.mem.wf) (ha : externalKey a.toNat = true) :
    (s.extWrite E a v).mem.wf := by
  unfold State.extWrite
  split
  · exact Memory.put_wf v h ha
  · exact h

/-! ### The memory primitives -/

@[simp] theorem memRead8_regs (a : Word) : (s.memRead8 E a |>.2).regs = s.regs := by
  unfold State.memRead8; split <;> simp
@[simp] theorem memRead8_fault (a : Word) : (s.memRead8 E a |>.2).fault = s.fault := by
  unfold State.memRead8; split <;> simp
@[simp] theorem memRead8_acc (a : Word) : (s.memRead8 E a |>.2).acc = s.acc := by
  unfold State.memRead8; split <;> simp
@[simp] theorem memRead8_mem (a : Word) : (s.memRead8 E a |>.2).mem = s.mem := by
  unfold State.memRead8; split <;> simp
@[simp] theorem memRead8_cfg (a : Word) : (s.memRead8 E a |>.2).cfg = s.cfg := by
  unfold State.memRead8; split <;> simp
@[simp] theorem memRead8_inbox (a : Word) : (s.memRead8 E a |>.2).inbox = s.inbox := by
  unfold State.memRead8; split <;> simp
@[simp] theorem memRead8_resp (a : Word) : (s.memRead8 E a |>.2).resp = s.resp := by
  unfold State.memRead8; split <;> simp
@[simp] theorem memRead8_pstates_length (a : Word) : (s.memRead8 E a).2.pstates.length = s.pstates.length := by
  unfold State.memRead8; split <;> simp

@[simp] theorem memRead16_regs (a : Word) : (s.memRead16 E a |>.2).regs = s.regs := by simp [State.memRead16]
@[simp] theorem memRead16_fault (a : Word) : (s.memRead16 E a |>.2).fault = s.fault := by simp [State.memRead16]
@[simp] theorem memRead16_acc (a : Word) : (s.memRead16 E a |>.2).acc = s.acc := by simp [State.memRead16]
@[simp] theorem memRead16_mem (a : Word) : (s.memRead16 E a |>.2).mem = s.mem := by simp [State.memRead16]
@[simp] theorem memRead16_cfg (a : Word) : (s.memRead16 E a |>.2).cfg = s.cfg := by simp [State.memRead16]
@[simp] theorem memRead16_inbox (a : Word) : (s.memRead16 E a |>.2).inbox = s.inbox := by simp [State.memRead16]
@[simp] theorem memRead16_resp (a : Word) : (s.memRead16 E a |>.2).resp = s.resp := by simp [State.memRead16]
@[simp] theorem memRead16_pstates_length (a : Word) : (s.memRead16 E a).2.pstates.length = s.pstates.length := by
  simp [State.memRead16]

@[simp] theorem memWrite8_regs (a : Word) (v : Byte) : (s.memWrite8 E a v).regs = s.regs := by
  unfold State.memWrite8; split <;> simp
@[simp] theorem memWrite8_fault (a : Word) (v : Byte) : (s.memWrite8 E a v).fault = s.fault := by
  unfold State.memWrite8; split <;> simp
@[simp] theorem memWrite8_acc (a : Word) (v : Byte) : (s.memWrite8 E a v).acc = s.acc := by
  unfold State.memWrite8; split <;> simp
@[simp] theorem memWrite8_cfg (a : Word) (v : Byte) : (s.memWrite8 E a v).cfg = s.cfg := by
  unfold State.memWrite8; split <;> simp
@[simp] theorem memWrite8_inbox (a : Word) (v : Byte) : (s.memWrite8 E a v).inbox = s.inbox := by
  unfold State.memWrite8; split <;> simp
@[simp] theorem memWrite8_resp (a : Word) (v : Byte) : (s.memWrite8 E a v).resp = s.resp := by
  unfold State.memWrite8; split <;> simp
@[simp] theorem memWrite8_pstates_length (a : Word) (v : Byte) :
    (s.memWrite8 E a v).pstates.length = s.pstates.length := by
  unfold State.memWrite8; split <;> simp

@[simp] theorem memWrite16_regs (a v : Word) : (s.memWrite16 E a v).regs = s.regs := by simp [State.memWrite16]
@[simp] theorem memWrite16_fault (a v : Word) : (s.memWrite16 E a v).fault = s.fault := by simp [State.memWrite16]
@[simp] theorem memWrite16_acc (a v : Word) : (s.memWrite16 E a v).acc = s.acc := by simp [State.memWrite16]
@[simp] theorem memWrite16_cfg (a v : Word) : (s.memWrite16 E a v).cfg = s.cfg := by simp [State.memWrite16]
@[simp] theorem memWrite16_inbox (a v : Word) : (s.memWrite16 E a v).inbox = s.inbox := by simp [State.memWrite16]
@[simp] theorem memWrite16_resp (a v : Word) : (s.memWrite16 E a v).resp = s.resp := by simp [State.memWrite16]
@[simp] theorem memWrite16_pstates_length (a v : Word) : (s.memWrite16 E a v).pstates.length = s.pstates.length := by
  simp [State.memWrite16]

/-- A store keeps external memory canonical (R56). -/
theorem memWrite8_wf (a : Word) (v : Byte) (h : s.mem.wf) : (s.memWrite8 E a v).mem.wf := by
  unfold State.memWrite8
  split
  · simpa using h
  · rename_i ha; exact extWrite_wf E s v h (externalKey_of_none ha)

theorem memWrite16_wf (a v : Word) (h : s.mem.wf) : (s.memWrite16 E a v).mem.wf :=
  memWrite8_wf E _ _ _ (memWrite8_wf E _ _ _ h)

/-- A store reaches nothing of the register file: it commutes with a write of `sp`. -/
theorem memWrite8_writeSp (x a : Word) (v : Byte) :
    (s.writeSp x).memWrite8 E a v = (s.memWrite8 E a v).writeSp x := by
  unfold State.memWrite8
  cases windowOffset? a with
  | none => unfold State.extWrite; simp only [writeSp_cfg]; cases s.cfg.extMem <;> rfl
  | some o =>
    simp only [State.ioWrite, writeSp_cfg]
    cases s.cfg.owner[o] with
    | none => rfl
    | some i =>
      simp only [State.runHook, ioDirectWrite_cfg, writeSp_cfg, ioDirectWrite_pstates, writeSp_pstates]
      cases s.cfg.peripherals[i]? <;> cases s.pstates[i]? <;> rfl

theorem memWrite16_writeSp (x a v : Word) :
    (s.writeSp x).memWrite16 E a v = (s.memWrite16 E a v).writeSp x := by
  simp only [State.memWrite16, memWrite8_writeSp]

/-- A read at a window address leaves the external memory alone, whatever hook runs (R241). -/
theorem memRead8_inWindow {s : State} {a : Word} (h : windowOffset? a ≠ none) :
    (s.memRead8 E a).2.memState = s.memState := by
  unfold State.memRead8
  split
  · simp
  · contradiction

/-- So does a store. -/
theorem memWrite8_inWindow {s : State} {a : Word} (v : Byte) (h : windowOffset? a ≠ none) :
    (s.memWrite8 E a v).mem = s.mem ∧ (s.memWrite8 E a v).memState = s.memState := by
  unfold State.memWrite8
  split
  · simp
  · contradiction

/-! ### Bytes looked at without a hook -/

/-- A byte depends on the window and external memory alone. -/
theorem peek_congr {s t : State} (hw : t.win = s.win) (hm : t.mem = s.mem) (hs : t.memState = s.memState)
    (hc : t.cfg = s.cfg) (a : Word) : t.peek E a = s.peek E a := by
  unfold State.peek State.extRead
  rw [hw, hm, hs, hc]
  cases windowOffset? a with
  | some o => rfl
  | none => cases s.cfg.extMem <;> rfl

/-- A byte of the flat RAM depends on its list alone. -/
theorem peek_flat {s t : State} (hf : s.cfg.extMem = .flatRam) (hc : t.cfg = s.cfg) (hm : t.mem = s.mem) {a : Word}
    (ha : windowOffset? a = none) : t.peek E a = s.peek E a := by
  unfold State.peek State.extRead
  rw [ha, hc, hf, hm]

theorem plainAt_of_cfg {s t : State} (h : t.cfg = s.cfg) (a : Word) : t.plainAt a = s.plainAt a := by
  unfold State.plainAt; rw [h]

@[simp] theorem plainAt_memWrite8 (a b : Word) (v : Byte) : (s.memWrite8 E a v).plainAt b = s.plainAt b :=
  plainAt_of_cfg (by simp) b

@[simp] theorem plainAt_memRead8 (a b : Word) : (s.memRead8 E a).2.plainAt b = s.plainAt b :=
  plainAt_of_cfg (by simp) b

/-- A plain byte is an unowned byte of the window or a byte of the flat RAM. -/
theorem plainAt_cases {s : State} {a : Word} (h : s.plainAt a = true) :
    (∃ o, windowOffset? a = some o ∧ s.cfg.owner[o] = none) ∨
      windowOffset? a = none ∧ s.cfg.extMem = .flatRam := by
  unfold State.plainAt at h
  cases hw : windowOffset? a with
  | some o => rw [hw] at h; exact .inl ⟨o, rfl, eq_of_beq h⟩
  | none => rw [hw] at h; exact .inr ⟨rfl, by simpa using h⟩

/-- A read of a plain byte gives the byte that stands there and changes nothing (R64). -/
theorem memRead8_plain {s : State} {a : Word} (h : s.plainAt a = true) : s.memRead8 E a = (s.peek E a, s) := by
  unfold State.memRead8 State.peek
  rcases plainAt_cases h with ⟨o, hw, ho⟩ | ⟨hw, hf⟩
  · rw [hw]; simp only [State.ioRead, ho]
  · rw [hw]; simp only [extRead_flat E hf]

/-- A word read of plain bytes gives them, the one at the lower address low, and changes nothing (R58). -/
theorem memRead16_plain {s : State} {a : Word} (h : s.plainAt a = true) (h' : s.plainAt (a + 1) = true) :
    s.memRead16 E a = (joinBytes (s.peek E (a + 1)) (s.peek E a), s) := by
  simp only [State.memRead16, memRead8_plain E h, memRead8_plain E h']

/-- A store to a plain byte runs no hook: that byte takes the value, and every other one is as before. -/
theorem memWrite8_plain {s : State} {a : Word} (v : Byte) (h : s.plainAt a = true) :
    (s.memWrite8 E a v).pstates = s.pstates ∧ (s.memWrite8 E a v).extSeq = s.extSeq ∧
      (s.memWrite8 E a v).memState = s.memState ∧
      ∀ b, (s.memWrite8 E a v).peek E b = if b = a then v else s.peek E b := by
  unfold State.memWrite8
  rcases plainAt_cases h with ⟨o, hw, ho⟩ | ⟨hw, hf⟩
  · rw [hw]
    simp only [State.ioWrite, ho]
    refine ⟨rfl, rfl, rfl, fun b => ?_⟩
    cases hb : windowOffset? b with
    | none =>
      have hab : b ≠ a := fun e => by rw [e, hw] at hb; cases hb
      rw [if_neg hab]
      unfold State.peek State.extRead
      rw [hb, ioDirectWrite_cfg]
      cases s.cfg.extMem <;> rfl
    | some o' =>
      simp only [State.peek, hb, ioDirectWrite_win]
      by_cases hab : b = a
      · subst hab
        rw [hw] at hb
        cases hb
        simp
      · have : (o : Nat) ≠ o' := fun e => hab (windowOffset?_inj hb (by rw [hw, Fin.ext e]))
        simp [hab, this]
  · rw [hw]
    simp only [extWrite_flat E hf, true_and]
    intro b
    cases hb : windowOffset? b with
    | none =>
      simp only [State.peek, hb, State.extRead, hf, Memory.get?_put]
      by_cases hab : b = a
      · simp [hab]
      · have : b.toNat ≠ a.toNat := fun e => hab (BitVec.eq_of_toNat_eq e)
        simp [hab, this]
    | some o =>
      have : b ≠ a := fun e => by rw [e, hw] at hb; cases hb
      simp [State.peek, hb, this]

/-- A store leaves every byte of the flat RAM other than its own alone, whatever hook runs. -/
theorem peek_memWrite8_external {s : State} {a b : Word} (v : Byte) (hf : s.cfg.extMem = .flatRam)
    (hb : windowOffset? b = none) (hab : b ≠ a) : (s.memWrite8 E a v).peek E b = s.peek E b := by
  cases hw : windowOffset? a with
  | some o =>
    have h : windowOffset? a ≠ none := by simp [hw]
    exact peek_flat E hf (by simp) (memWrite8_inWindow E v h).1 hb
  | none =>
    have hp : s.plainAt a = true := by simp [State.plainAt, hw, hf]
    rw [(memWrite8_plain E v hp).2.2.2, if_neg hab]

end Sys2Proof.Machine
end

