-- ==== Sys2Proof/Laws/Frames.lean ====
section
/-! SUPPORT. The frames of Safety.lean, once for each shape of command: register only, one access, two accesses; and the window check. -/

namespace Sys2Proof.Machine

variable (E : Env)

/-- The check of `Instr.wellFormed` is the range of the window (R223). -/
theorem inWindow_iff {a : Word} : inWindow a = true ↔ 0xFF00 ≤ a.toNat ∧ a.toNat ≤ 0xFF4B := by
  unfold inWindow
  rw [Bool.and_eq_true, decide_eq_true_iff, decide_eq_true_iff]
  exact Iff.rfl

/-- `t` is `u` but for the register file and the response. -/
structure SameOutside (u t : State) : Prop where
  control  : SameControl u t
  win      : t.win = u.win
  mem      : t.mem = u.mem
  memState : t.memState = u.memState
  pstates  : t.pstates = u.pstates
  extSeq   : t.extSeq = u.extSeq

theorem SameOutside.peek {u t : State} (h : SameOutside u t) (a : Word) : t.peek E a = u.peek E a :=
  peek_congr E h.win h.mem h.memState h.control.cfg a

/-- A state that differs in the register file and the response alone is untouched. -/
theorem Untouched.of_outside {s t : State} (h : SameOutside s t) : Untouched E s t :=
  ⟨h.control, h.peek E, h.memState, h.pstates, h.extSeq⟩

theorem SameOutside.respond (u : State) (v : Response) : SameOutside u (u.respond v) :=
  ⟨⟨rfl, rfl, rfl, rfl⟩, rfl, rfl, rfl, rfl, rfl⟩

theorem SameOutside.writeReg8 (u : State) (r : Reg8) (v : Byte) : SameOutside u (u.writeReg8 r v) := by
  refine ⟨⟨?_, ?_, ?_, ?_⟩, ?_, ?_, ?_, ?_, ?_⟩ <;> simp

theorem SameOutside.writeReg16 (u : State) (q : Reg16) (v : Word) : SameOutside u (u.writeReg16 q v) := by
  refine ⟨⟨?_, ?_, ?_, ?_⟩, ?_, ?_, ?_, ?_, ?_⟩ <;> simp

theorem SameOutside.writeSp (u : State) (v : Word) : SameOutside u (u.writeSp v) :=
  ⟨⟨rfl, rfl, rfl, rfl⟩, rfl, rfl, rfl, rfl, rfl⟩

theorem SameOutside.writeAlu (u : State) (r : AluResult) : SameOutside u (u.writeAlu r) := by
  refine ⟨⟨?_, ?_, ?_, ?_⟩, ?_, ?_, ?_, ?_, ?_⟩ <;> simp

theorem SameControl.trans {s t u : State} (h : SameControl s t) (h' : SameControl t u) : SameControl s u :=
  ⟨h'.acc.trans h.acc, h'.fault.trans h.fault, h'.cfg.trans h.cfg, h'.inbox.trans h.inbox⟩

theorem SameOutside.trans {u v w : State} (h : SameOutside u v) (h' : SameOutside v w) : SameOutside u w :=
  ⟨h.control.trans h'.control, h'.win.trans h.win, h'.mem.trans h.mem, h'.memState.trans h.memState,
    h'.pstates.trans h.pstates, h'.extSeq.trans h.extSeq⟩

/-- The frame of accesses that lead to `u`, carried over to a state that is `u` outside registers and response. -/
theorem AccessFrame.outside {reads writes : List Word} {u s t : State} (h : AccessFrame E reads writes u s u)
    (o : SameOutside u t) : AccessFrame E reads writes u s t where
  control := h.control.trans o.control
  mem := o.mem
  memState := o.memState
  win := o.win
  pstates := o.pstates
  extSeq := o.extSeq
  external hf a ha hn := (o.peek E a).trans (h.external hf a ha hn)
  inWindow q := ⟨o.mem.trans (h.inWindow q).1, o.memState.trans (h.inWindow q).2⟩
  quiet q := by
    obtain ⟨h1, h2, h3, h4⟩ := h.quiet q
    exact ⟨o.pstates.trans h1, o.extSeq.trans h2, o.memState.trans h3, fun a hn => (o.peek E a).trans (h4 a hn)⟩

/-- One byte read. -/
theorem AccessFrame.read8 (s : State) (a : Word) : AccessFrame E [a] [] (s.memRead8 E a).2 s (s.memRead8 E a).2 where
  control := ⟨by simp, by simp, by simp, by simp⟩
  mem := rfl
  memState := rfl
  win := rfl
  pstates := rfl
  extSeq := rfl
  external hf b hb _ := peek_flat E hf (by simp) (by simp) hb
  inWindow q := ⟨by simp, memRead8_inWindow E (q a (by simp))⟩
  quiet q := by
    rw [memRead8_plain E (q a (by simp))]
    exact ⟨rfl, rfl, rfl, fun _ _ => rfl⟩

/-- One byte stored. -/
theorem AccessFrame.write8 (s : State) (a : Word) (v : Byte) :
    AccessFrame E [] [a] (s.memWrite8 E a v) s (s.memWrite8 E a v) where
  control := ⟨by simp, by simp, by simp, by simp⟩
  mem := rfl
  memState := rfl
  win := rfl
  pstates := rfl
  extSeq := rfl
  external hf b hb hn := peek_memWrite8_external E v hf hb (by simpa using hn)
  inWindow q := memWrite8_inWindow E v (q a (by simp))
  quiet q := by
    obtain ⟨h1, h2, h3, h4⟩ := memWrite8_plain E v (q a (by simp))
    refine ⟨h1, h2, h3, fun b hn => ?_⟩
    rw [h4, if_neg (by simpa using hn)]

/-- Accesses one after another. -/
theorem AccessFrame.comp {r1 w1 r2 w2 : List Word} {s u v : State} (h1 : AccessFrame E r1 w1 u s u)
    (h2 : AccessFrame E r2 w2 v u v) : AccessFrame E (r1 ++ r2) (w1 ++ w2) v s v := by
  have part1 : ∀ a ∈ r1 ++ w1, a ∈ (r1 ++ r2) ++ (w1 ++ w2) := fun a ha => by
    simp only [List.mem_append] at ha ⊢
    exact ha.elim (fun h => .inl (.inl h)) (fun h => .inr (.inl h))
  have part2 : ∀ a ∈ r2 ++ w2, a ∈ (r1 ++ r2) ++ (w1 ++ w2) := fun a ha => by
    simp only [List.mem_append] at ha ⊢
    exact ha.elim (fun h => .inl (.inr h)) (fun h => .inr (.inr h))
  have hcfg := h1.control.cfg
  refine ⟨h1.control.trans h2.control, rfl, rfl, rfl, rfl, rfl, fun hf a ha hn => ?_, fun q => ?_, fun q => ?_⟩
  · simp only [List.mem_append, not_or] at hn
    exact (h2.external (by rw [hcfg]; exact hf) a ha hn.2).trans (h1.external hf a ha hn.1)
  · obtain ⟨a1, a2⟩ := h1.inWindow fun a ha => q a (part1 a ha)
    obtain ⟨b1, b2⟩ := h2.inWindow fun a ha => q a (part2 a ha)
    exact ⟨b1.trans a1, b2.trans a2⟩
  · obtain ⟨a1, a2, a3, a4⟩ := h1.quiet fun a ha => q a (part1 a ha)
    obtain ⟨b1, b2, b3, b4⟩ := h2.quiet fun a ha => by
      rw [plainAt_of_cfg hcfg]
      exact q a (part2 a ha)
    refine ⟨b1.trans a1, b2.trans a2, b3.trans a3, fun a hn => ?_⟩
    simp only [List.mem_append, not_or] at hn
    exact (b4 a hn.2).trans (a4 a hn.1)

/-- One word read: two bytes, the lower address first (R58). -/
theorem AccessFrame.read16 (s : State) (a : Word) :
    AccessFrame E [a, a + 1] [] (s.memRead16 E a).2 s (s.memRead16 E a).2 :=
  (AccessFrame.read8 E s a).comp E (AccessFrame.read8 E _ (a + 1))

/-- One word stored: two bytes, the lower address first (R60). -/
theorem AccessFrame.write16 (s : State) (a v : Word) :
    AccessFrame E [] [a, a + 1] (s.memWrite16 E a v) s (s.memWrite16 E a v) :=
  (AccessFrame.write8 E s a (lowByte v)).comp E (AccessFrame.write8 E _ (a + 1) (highByte v))

end Sys2Proof.Machine
end

