-- ==== Sys2Proof/Laws/PerInstr.lean ====
section
/-! SUPPORT. For each command: its `OP` is in the op map, and the fields its format does not use are zero in its word
(R81, R82, R87). -/

namespace Sys2Proof.Laws.EncodeFields

/-- The word of a command lies in a row of the op map and keeps that row's must-be-zero fields zero. -/
def Statement (i : Instr) : Prop :=
  ∃ row, opRow? (opField (encode i)) = some row ∧ row.fmt.unusedZero (encode i) = true

/-- A packed word in a row of the map, with the fields that the row's format does not use zero. -/
theorem of_row (row : OpRow) (op : BitVec 8) (a b : BitVec 4) (w x : BitVec 16) (h : opRow? op = some row)
    (ha : row.fmt.fields.a = true ∨ a = 0) (hb : row.fmt.fields.b = true ∨ b = 0)
    (hw : row.fmt.fields.w = true ∨ w = 0) (hx : row.fmt.fields.xHigh = true ∨ x.extractLsb' 8 8 = 0)
    (hl : row.fmt.fields.xLow = true ∨ x.extractLsb' 0 8 = 0) :
    ∃ r, opRow? (opField (pack op a b w x)) = some r ∧ r.fmt.unusedZero (pack op a b w x) = true := by
  refine ⟨row, by rw [opField_pack, h], ?_⟩
  simp only [Format.unusedZero, xHighField_eq, xLowField_eq, aField_pack, bField_pack, wField_pack, xField_pack,
    Bool.and_eq_true, Bool.or_eq_true, beq_iff_eq]
  exact ⟨⟨⟨⟨ha, hb⟩, hw⟩, hx⟩, hl⟩

theorem rd8 (r : Reg8) : Statement (.rd8 r) := by
  apply of_row _ _ _ _ _ _ rfl <;> simp [Format.fields]

theorem wr8 (r : Reg8) (imm : Byte) : Statement (.wr8 r imm) := by
  apply of_row _ _ _ _ _ _ rfl <;> simp [Format.fields]

theorem rd16 (q : Reg16) : Statement (.rd16 q) := by
  apply of_row _ _ _ _ _ _ rfl <;> simp [Format.fields]

theorem wr16 (q : Reg16) (imm : Word) : Statement (.wr16 q imm) := by
  apply of_row _ _ _ _ _ _ rfl <;> simp [Format.fields]

theorem tstf (f : FlagId) : Statement (.tstf f) := by
  apply of_row _ _ _ _ _ _ rfl <;> simp [Format.fields]

theorem setf (f : FlagId) : Statement (.setf f) := by
  apply of_row _ _ _ _ _ _ rfl <;> simp [Format.fields]

theorem clrf (f : FlagId) : Statement (.clrf f) := by
  apply of_row _ _ _ _ _ _ rfl <;> simp [Format.fields]

theorem add (imm : Byte) : Statement (.add imm) := by
  apply of_row _ _ _ _ _ _ rfl <;> simp [Format.fields]

theorem adc (imm : Byte) : Statement (.adc imm) := by
  apply of_row _ _ _ _ _ _ rfl <;> simp [Format.fields]

theorem sub (imm : Byte) : Statement (.sub imm) := by
  apply of_row _ _ _ _ _ _ rfl <;> simp [Format.fields]

theorem sbc (imm : Byte) : Statement (.sbc imm) := by
  apply of_row _ _ _ _ _ _ rfl <;> simp [Format.fields]

theorem and (imm : Byte) : Statement (.and imm) := by
  apply of_row _ _ _ _ _ _ rfl <;> simp [Format.fields]

theorem or (imm : Byte) : Statement (.or imm) := by
  apply of_row _ _ _ _ _ _ rfl <;> simp [Format.fields]

theorem xor (imm : Byte) : Statement (.xor imm) := by
  apply of_row _ _ _ _ _ _ rfl <;> simp [Format.fields]

theorem addr (r : Reg8) : Statement (.addr r) := by
  apply of_row _ _ _ _ _ _ rfl <;> simp [Format.fields]

theorem adcr (r : Reg8) : Statement (.adcr r) := by
  apply of_row _ _ _ _ _ _ rfl <;> simp [Format.fields]

theorem subr (r : Reg8) : Statement (.subr r) := by
  apply of_row _ _ _ _ _ _ rfl <;> simp [Format.fields]

theorem sbcr (r : Reg8) : Statement (.sbcr r) := by
  apply of_row _ _ _ _ _ _ rfl <;> simp [Format.fields]

theorem andr (r : Reg8) : Statement (.andr r) := by
  apply of_row _ _ _ _ _ _ rfl <;> simp [Format.fields]

theorem orr (r : Reg8) : Statement (.orr r) := by
  apply of_row _ _ _ _ _ _ rfl <;> simp [Format.fields]

theorem xorr (r : Reg8) : Statement (.xorr r) := by
  apply of_row _ _ _ _ _ _ rfl <;> simp [Format.fields]

theorem addm (p : Pair) : Statement (.addm p) := by
  apply of_row _ _ _ _ _ _ rfl <;> simp [Format.fields]

theorem adcm (p : Pair) : Statement (.adcm p) := by
  apply of_row _ _ _ _ _ _ rfl <;> simp [Format.fields]

theorem subm (p : Pair) : Statement (.subm p) := by
  apply of_row _ _ _ _ _ _ rfl <;> simp [Format.fields]

theorem sbcm (p : Pair) : Statement (.sbcm p) := by
  apply of_row _ _ _ _ _ _ rfl <;> simp [Format.fields]

theorem andm (p : Pair) : Statement (.andm p) := by
  apply of_row _ _ _ _ _ _ rfl <;> simp [Format.fields]

theorem orm (p : Pair) : Statement (.orm p) := by
  apply of_row _ _ _ _ _ _ rfl <;> simp [Format.fields]

theorem xorm (p : Pair) : Statement (.xorm p) := by
  apply of_row _ _ _ _ _ _ rfl <;> simp [Format.fields]

theorem mov (rd rs : Reg8) : Statement (.mov rd rs) := by
  apply of_row _ _ _ _ _ _ rfl <;> simp [Format.fields]

theorem ldp (r : Reg8) (p : Pair) : Statement (.ldp r p) := by
  apply of_row _ _ _ _ _ _ rfl <;> simp [Format.fields]

theorem stp (p : Pair) (r : Reg8) : Statement (.stp p r) := by
  apply of_row _ _ _ _ _ _ rfl <;> simp [Format.fields]

theorem lda (r : Reg8) (a16 : Word) : Statement (.lda r a16) := by
  apply of_row _ _ _ _ _ _ rfl <;> simp [Format.fields]

theorem sta (a16 : Word) (r : Reg8) : Statement (.sta a16 r) := by
  apply of_row _ _ _ _ _ _ rfl <;> simp [Format.fields]

theorem ldi (r : Reg8) : Statement (.ldi r) := by
  apply of_row _ _ _ _ _ _ rfl <;> simp [Format.fields]

theorem sti (r : Reg8) : Statement (.sti r) := by
  apply of_row _ _ _ _ _ _ rfl <;> simp [Format.fields]

theorem ld16 (p : Pair) (imm : Word) : Statement (.ld16 p imm) := by
  apply of_row _ _ _ _ _ _ rfl <;> simp [Format.fields]

theorem inc16 (p : Pair) : Statement (.inc16 p) := by
  apply of_row _ _ _ _ _ _ rfl <;> simp [Format.fields]

theorem dec16 (p : Pair) : Statement (.dec16 p) := by
  apply of_row _ _ _ _ _ _ rfl <;> simp [Format.fields]

theorem push (p : Pair) : Statement (.push p) := by
  apply of_row _ _ _ _ _ _ rfl <;> simp [Format.fields]

theorem pop (p : Pair) : Statement (.pop p) := by
  apply of_row _ _ _ _ _ _ rfl <;> simp [Format.fields]

theorem mrd8 (a16 : Word) : Statement (.mrd8 a16) := by
  apply of_row _ _ _ _ _ _ rfl <;> simp [Format.fields]

theorem mwr8 (a16 : Word) (imm : Byte) : Statement (.mwr8 a16 imm) := by
  apply of_row _ _ _ _ _ _ rfl <;> simp [Format.fields]

theorem mrd16 (a16 : Word) : Statement (.mrd16 a16) := by
  apply of_row _ _ _ _ _ _ rfl <;> simp [Format.fields]

theorem mwr16 (a16 : Word) (imm : Word) : Statement (.mwr16 a16 imm) := by
  apply of_row _ _ _ _ _ _ rfl <;> simp [Format.fields]

theorem ioreset : Statement (.ioreset) := by
  apply of_row _ _ _ _ _ _ rfl <;> simp [Format.fields]

theorem iotick (cyc : Cycles) : Statement (.iotick cyc) := by
  apply of_row _ _ _ _ _ _ rfl <;> simp [Format.fields]

theorem iosync (cyc : Cycles) : Statement (.iosync cyc) := by
  apply of_row _ _ _ _ _ _ rfl <;> simp [Format.fields]

theorem iodrain : Statement (.iodrain) := by
  apply of_row _ _ _ _ _ _ rfl <;> simp [Format.fields]

theorem iord (a16 : Word) : Statement (.iord a16) := by
  apply of_row _ _ _ _ _ _ rfl <;> simp [Format.fields]

theorem iowr (a16 : Word) (imm : Byte) : Statement (.iowr a16 imm) := by
  apply of_row _ _ _ _ _ _ rfl <;> simp [Format.fields]

theorem iodw (a16 : Word) (imm : Byte) : Statement (.iodw a16 imm) := by
  apply of_row _ _ _ _ _ _ rfl <;> simp [Format.fields]

end Sys2Proof.Laws.EncodeFields
end

