-- ==== Sys2Proof/Tests/Slice0.lean ====
section
/-! SUPPORT. Small tests, their expected values taken from the spec's worked encodings (R95) and test vectors
(95_test_vectors.md), and a witness for every statement that has hypotheses. -/

namespace Sys2Proof.Tests

open Sys2Proof Sys2Proof.Machine Sys2Proof.Claims

/-! ### Helpers -/

/-- A field of the state an outcome leads to. -/
def after {α : Type} (o : Host.Outcome State Fault Refusal) (f : State → α) : Option α :=
  match o with
  | .next t => some (f t)
  | .fault _ => none
  | .refused _ => none

/-- The word decodes to the command, and is the command's word. -/
def isWordOf (w : Command) (i : Instr) : Bool :=
  (match decode w with
    | .ok j => j == i
    | .error _ => false) && encode i == w

/-- The decoder rejects the word with the code. -/
def rejects (w : Command) (c : Violation) : Bool :=
  match decode w with
  | .ok _ => false
  | .error d => d == c

/-- The reset state with A and F set. -/
def withAF (a f : Byte) : State := (State.reset.writeReg8 .a a).writeReg8 .f f

/-- The reset state in the other carry mode, with A and F set. -/
def withAFTrue3 (a f : Byte) : State := { withAF a f with cfg := { State.reset.cfg with carryMode := .true3 } }

/-- The reset state with one byte of external memory and a pair pointing to it. -/
def pointing (p : Pair) (a : Word) (v : Byte) (s : State) : State := (s.writePair p a).extWrite Config.env a v

/-- A and F after a command. -/
def afterAF (i : Instr) (s : State) : Option (Byte × Byte) := after (exec i s) fun t => (t.readReg8 .a, t.readReg8 .f)

/-- The reset state with inputs issued. -/
def issued (xs : List HostInput) : State := { State.reset with inbox := xs }

/-- The reset state with a finite accumulator of 4 bits holding `n`. -/
def acc4 (n : Nat) : State := { State.reset with acc := n, cfg := { State.reset.cfg with accWidth := some 4 } }

/-! ### The fixture peripherals of 95_test_vectors.md section 2.8 -/

/-- A hook that returns its state and the window unchanged. -/
def keep (st : PState) (w : Window) : PState × Window := (st, w)

def divtHooks : PeripheralHooks where
  reset _ w _ := ([0], w.set 4 0)
  tick st w n _ :=
    let d := (st.headD 0 + n.toNat) % 65536
    ([d], w.set 4 (BitVec.ofNat 8 (d / 256)))
  onRead st w _ _ := keep st w
  onWrite _ w _ _ _ := ([0], w.set 4 0)

def cntrHooks : PeripheralHooks where
  reset _ w _ := ([0], w)
  tick st w _ _ := keep st w
  onRead st w a _ :=
    let n := st.headD 0 + 1
    ([n], if a = 0xFF01 then w.set 1 (BitVec.ofNat 8 n) else w.set 2 (BitVec.ofNat 8 n))
  onWrite st w _ _ _ := keep st w

def timtHooks : PeripheralHooks where
  reset st w _ := keep st w
  tick st w _ _ := (st, w.set 5 (w[4] + 1))
  onRead st w _ _ := keep st w
  onWrite st w _ _ _ := keep st w

def latchHooks : PeripheralHooks where
  reset _ w _ := ([0, 0], w.set 15 0xE0)
  tick st w _ _ := keep st w
  onRead st w _ _ := keep st w
  onWrite st w _ v _ := ([st.headD 0 + 1, w[15].toNat], w.set 15 (v ||| 0xE0#8))

/-- A memory with a read-only region below 0x8000 that holds 0x42, and one byte above it (R56 names read-only regions). -/
def romBelow8000 : ExtMemOps where
  read st a := (if a < 0x8000 then 0x42 else BitVec.ofNat 8 (st.headD 0), st)
  write st a v := if a < 0x8000 then st else [v.toNat]

/-- A memory whose reads answer how many there have been: reads with a side effect. -/
def countingReads : ExtMemOps where
  read st _ := (BitVec.ofNat 8 (st.headD 0 + 1), [st.headD 0 + 1])
  write st _ _ := st

def fixtureEnv : Env where
  hooks k := match k with
    | 0 => divtHooks
    | 1 => cntrHooks
    | 2 => timtHooks
    | _ => latchHooks
  ext _ := 0
  extMems k := match k with
    | 0 => romBelow8000
    | _ => countingReads
  extInit _ := 0

def divt : PeripheralDecl := ⟨0, [0xFF04], [0]⟩
def cntr : PeripheralDecl := ⟨1, [0xFF01, 0xFF02], [0]⟩
def timt : PeripheralDecl := ⟨2, [0xFF05], []⟩
def latch : PeripheralDecl := ⟨3, [0xFF0F], [0, 0]⟩

/-- Peripherals that claim the first and the last byte of the window. -/
def edges : PeripheralDecl := ⟨1, [0xFF00, 0xFF4B], [0]⟩

/-- An instance with the peripherals of a list. -/
def instanceOf (ps : List PeripheralDecl) : Host.Outcome State Fault Refusal :=
  construct fixtureEnv 0x0100 .fold none .flatRam ps [] []

/-- A field of an operation's result in an instance without peripherals over another external memory. -/
def overMemory {α : Type} (k : Nat) (f : State → α) : Option α :=
  after (construct fixtureEnv 0x0100 .fold none (.other k) [] [] [0]) f

/-- A field of an operation's result in an instance with the peripherals of a list. -/
def inInstance {α : Type} (ps : List PeripheralDecl) (f : State → α) : Option α := after (instanceOf ps) f

/-! ### WellFormed (R223): an ill-formed term for each check, refused -/

theorem test_wellFormed_refuses_iord :
    (Instr.iord 0xFEFF).wellFormed = false ∧ (Instr.iord 0xFF4C).wellFormed = false := by decide
theorem test_wellFormed_refuses_iowr :
    (Instr.iowr 0xFEFF 1).wellFormed = false ∧ (Instr.iowr 0xFF4C 1).wellFormed = false := by decide
theorem test_wellFormed_refuses_iodw :
    (Instr.iodw 0xFEFF 1).wellFormed = false ∧ (Instr.iodw 0xFF4C 1).wellFormed = false := by decide
theorem test_wellFormed_accepts_the_window_edges :
    (Instr.iord 0xFF00).wellFormed = true ∧ (Instr.iowr 0xFF4B 1).wellFormed = true ∧
      (Instr.iodw 0xFF00 1).wellFormed = true ∧ (Instr.mrd8 0x0000).wellFormed = true := by decide

/-! ### Decoding: every constructor, by a word of R95, R87 or a test vector -/

theorem test_words_register_file :
    isWordOf 0x017000000000#48 (.rd8 .f) = true ∧ isWordOf 0x021000000012#48 (.wr8 .b 0x12) = true ∧
    isWordOf 0x034000000000#48 (.rd16 .sp) = true ∧ isWordOf 0x04400000FFFE#48 (.wr16 .sp 0xFFFE) = true ∧
    isWordOf 0x053000000000#48 (.tstf .c) = true ∧ isWordOf 0x062000000000#48 (.setf .h) = true ∧
    isWordOf 0x071000000000#48 (.clrf .n) = true := by decide

theorem test_words_alu_value :
    isWordOf 0x1000000000FF#48 (.add 0xFF) = true ∧ isWordOf 0x11000000003B#48 (.adc 0x3B) = true ∧
    isWordOf 0x12000000003E#48 (.sub 0x3E) = true ∧ isWordOf 0x13000000004F#48 (.sbc 0x4F) = true ∧
    isWordOf 0x14000000003F#48 (.and 0x3F) = true ∧ isWordOf 0x15000000000F#48 (.or 0x0F) = true ∧
    isWordOf 0x16000000005A#48 (.xor 0x5A) = true := by decide

theorem test_words_alu_register :
    isWordOf 0x201000000000#48 (.addr .b) = true ∧ isWordOf 0x217000000000#48 (.adcr .f) = true ∧
    isWordOf 0x222000000000#48 (.subr .c) = true ∧ isWordOf 0x233000000000#48 (.sbcr .d) = true ∧
    isWordOf 0x244000000000#48 (.andr .e) = true ∧ isWordOf 0x255000000000#48 (.orr .h) = true ∧
    isWordOf 0x266000000000#48 (.xorr .l) = true := by decide

theorem test_words_alu_indirect :
    isWordOf 0x302000000000#48 (.addm .hl) = true ∧ isWordOf 0x312000000000#48 (.adcm .hl) = true ∧
    isWordOf 0x320000000000#48 (.subm .bc) = true ∧ isWordOf 0x331000000000#48 (.sbcm .de) = true ∧
    isWordOf 0x342000000000#48 (.andm .hl) = true ∧ isWordOf 0x351000000000#48 (.orm .de) = true ∧
    isWordOf 0x360000000000#48 (.xorm .bc) = true := by decide

theorem test_words_load_store :
    isWordOf 0x407100000000#48 (.mov .f .b) = true ∧ isWordOf 0x415200000000#48 (.ldp .h .hl) = true ∧
    isWordOf 0x420200000000#48 (.stp .hl .a) = true ∧ isWordOf 0x4340C0000000#48 (.lda .e 0xC000) = true ∧
    isWordOf 0x4410D0000000#48 (.sta 0xD000 .b) = true ∧ isWordOf 0x452000000000#48 (.ldi .c) = true ∧
    isWordOf 0x460000000000#48 (.sti .a) = true ∧ isWordOf 0x472000001234#48 (.ld16 .hl 0x1234) = true := by decide

theorem test_words_incdec_stack :
    isWordOf 0x501000000000#48 (.inc16 .de) = true ∧ isWordOf 0x512000000000#48 (.dec16 .hl) = true ∧
    isWordOf 0x602000000000#48 (.push .hl) = true ∧ isWordOf 0x611000000000#48 (.pop .de) = true := by decide

theorem test_words_memory_port :
    isWordOf 0x7000C1230000#48 (.mrd8 0xC123) = true ∧ isWordOf 0x7100D00200FF#48 (.mwr8 0xD002 0xFF) = true ∧
    isWordOf 0x7200C0000000#48 (.mrd16 0xC000) = true ∧ isWordOf 0x7300C000BEEF#48 (.mwr16 0xC000 0xBEEF) = true := by
  decide

theorem test_words_coordinator :
    isWordOf 0x800000000000#48 .ioreset = true ∧ isWordOf 0x810000000100#48 (.iotick 256) = true ∧
    isWordOf 0x82000000012C#48 (.iosync 300) = true ∧ isWordOf 0x830000000000#48 .iodrain = true ∧
    isWordOf 0x8400FF010000#48 (.iord 0xFF01) = true ∧ isWordOf 0x8500FF010099#48 (.iowr 0xFF01 0x99) = true ∧
    isWordOf 0x8600FF0400AB#48 (.iodw 0xFF04 0xAB) = true := by decide

/-- A cycle count takes all 32 low bits (R82). -/
theorem test_word_of_a_wide_count : isWordOf 0x8189ABCDEF01#48 (.iotick 0xABCDEF01) = false ∧
    isWordOf 0x8100ABCDEF01#48 (.iotick 0xABCDEF01) = true := by decide

/-! ### Rejected words (V8.1) -/

theorem test_rejects_reserved_op :
    rejects 0x000000000000#48 .badOp = true ∧ rejects 0x080000000000#48 .badOp = true ∧
    rejects 0x170000000000#48 .badOp = true ∧ rejects 0x480000000000#48 .badOp = true ∧
    rejects 0x870000000000#48 .badOp = true ∧ rejects 0xFF0000000000#48 .badOp = true := by decide

theorem test_rejects_reg8_id :
    rejects 0x018000000000#48 .badReg8Id = true ∧ rejects 0x01F000000000#48 .badReg8Id = true ∧
    rejects 0x408000000000#48 .badReg8Id = true ∧ rejects 0x400800000000#48 .badReg8Id = true ∧
    rejects 0x418300000000#48 .badReg8Id = true ∧ rejects 0x40F900000000#48 .badReg8Id = true := by decide

theorem test_rejects_reg16_id :
    rejects 0x035000000000#48 .badReg16Id = true ∧ rejects 0x503000000000#48 .badReg16Id = true ∧
    rejects 0x604000000000#48 .badReg16Id = true ∧ rejects 0x614000000000#48 .badReg16Id = true ∧
    rejects 0x303000000000#48 .badReg16Id = true ∧ rejects 0x473000001234#48 .badReg16Id = true ∧
    rejects 0x410300000000#48 .badReg16Id = true ∧ rejects 0x054000000000#48 .badFlagId = true := by decide

theorem test_rejects_nonzero_unused_fields :
    rejects 0x40F900000001#48 .reservedNonzero = true ∧ rejects 0x100000000100#48 .reservedNonzero = true ∧
    rejects 0x100100000000#48 .reservedNonzero = true ∧ rejects 0x020000000100#48 .reservedNonzero = true ∧
    rejects 0x800000000001#48 .reservedNonzero = true ∧ rejects 0x811000000004#48 .reservedNonzero = true ∧
    rejects 0x830000010000#48 .reservedNonzero = true ∧ rejects 0x7010C0000000#48 .reservedNonzero = true ∧
    rejects 0x7100C0000100#48 .reservedNonzero = true ∧ rejects 0x8410FF000000#48 .reservedNonzero = true ∧
    rejects 0x8500FF000100#48 .reservedNonzero = true := by decide

/-! ### The table word and the command port -/

theorem test_decodeTableWord : decodeTableWord 48 0x1000000000FF = some (.add 0xFF) ∧
    decodeTableWord 48 0 = none := by decide

/-- S1 through the port: the word of `ADD 0xFF`, issued. -/
theorem test_step_runs_the_word :
    after (step ((withAF 0x3C 0).withFetchWord 48 0x1000000000FF)) (fun t => (t.readReg8 .a, t.resp, t.inbox)) =
      some (0x3B#8, some .ok, []) := by decide

/-- V8.1: a malformed word. -/
theorem test_step_latches : after (step (issued [.cmd 0x018000000000#48])) (fun t => (t.fault, t.resp)) =
    some (some .badReg8Id, some (.fault .badReg8Id)) := by decide

/-- V8.2: a well-formed word at a stopped block. -/
theorem test_step_refuses_when_stopped :
    after (step { issued [.cmd 0x1000000000FF#48] with fault := some .badReg8Id })
      (fun t => (t.readReg8 .a, t.fault, t.resp)) =
      some (0#8, some .badReg8Id, some (.fault .badReg8Id)) := by decide

/-- The reset state after some commands, stopped, with `rst` asserted. -/
def stopped : State :=
  { (withAF 0x3C 0xF0).writeSp 0xD000 with fault := some .badReg8Id, acc := 7, inbox := [.rst] }

/-- V8.2, V9.1: `rst` clears the registers and the latch. -/
theorem test_step_rst_registers :
    after (step stopped) (fun t => (t.readReg8 .a, t.readReg8 .f, t.regs.sp)) = some (0#8, 0#8, 0#16) := by decide
theorem test_step_rst_latch :
    after (step stopped) (fun t => (t.acc, t.fault, t.resp)) = some (0, none, none) := by decide

/-! ### Register file (V1.1) -/

theorem test_rd8_f : after (exec (.rd8 .f) (State.reset.writeReg8 .f 0xFF)) (·.resp) = some (some (.byte 0xF0)) := by decide
theorem test_wr8_f : after (exec (.wr8 .f 0x0F) State.reset) (·.readReg8 .f) = some 0x00#8 := by decide
theorem test_rd16_bc :
    after (exec (.rd16 .bc) ((State.reset.writeReg8 .b 0x12).writeReg8 .c 0x34)) (·.resp) =
      some (some (.word 0x1234)) := by decide
theorem test_wr16_de : after (exec (.wr16 .de 0xBEEF) State.reset) (fun t => (t.readReg8 .d, t.readReg8 .e)) =
    some (0xBE#8, 0xEF#8) := by decide
theorem test_tstf_c : after (exec (.tstf .c) (State.reset.writeReg8 .f 0x10)) (·.resp) = some (some (.bit true)) := by decide
theorem test_setf_h : after (exec (.setf .h) State.reset) (·.readReg8 .f) = some 0x20#8 := by decide
theorem test_clrf_n : after (exec (.clrf .n) (State.reset.writeReg8 .f 0xF0)) (·.readReg8 .f) = some 0xB0#8 := by decide

/-! ### ALU (S1, S2, V2.1 to V2.4) -/

theorem test_add_s1 : afterAF (.add 0xFF) (withAF 0x3C 0x00) = some (0x3B#8, 0x30#8) := by decide
theorem test_add_ignores_carry : afterAF (.add 0xC6) (withAF 0x3A 0x10) = some (0x00#8, 0xB0#8) := by decide
theorem test_sub_s2 : afterAF (.sub 0x3E) (withAF 0x3E 0x00) = some (0x00#8, 0xC0#8) := by decide
theorem test_sub_borrow : afterAF (.sub 0x40) (withAF 0x3E 0x00) = some (0xFE#8, 0x50#8) := by decide
theorem test_adc_fold : afterAF (.adc 0xFF) (withAF 0x00 0x10) = some (0x00#8, 0x80#8) := by decide
theorem test_adc_true3 : afterAF (.adc 0xFF) (withAFTrue3 0x00 0x10) = some (0x00#8, 0xB0#8) := by decide
theorem test_sbc_fold : afterAF (.sbc 0x4F) (withAF 0x3B 0x10) = some (0xEB#8, 0x50#8) := by decide
theorem test_sbc_true3 : afterAF (.sbc 0x4F) (withAFTrue3 0x3B 0x10) = some (0xEB#8, 0x70#8) := by decide
theorem test_and : afterAF (.and 0x0F) (withAF 0xF0 0x10) = some (0x00#8, 0xA0#8) := by decide
theorem test_or : afterAF (.or 0x0F) (withAF 0x5A 0xF0) = some (0x5F#8, 0x00#8) := by decide
theorem test_xor : afterAF (.xor 0xFF) (withAF 0xFF 0x00) = some (0x00#8, 0x80#8) := by decide

theorem test_addr_f : afterAF (.addr .f) (withAF 0x00 0x90) = some (0x90#8, 0x00#8) := by decide
theorem test_adcr_f : afterAF (.adcr .f) (withAF 0x10 0x10) = some (0x21#8, 0x00#8) := by decide
theorem test_subr_a : afterAF (.subr .a) (withAF 0x90 0x00) = some (0x00#8, 0xC0#8) := by decide
/-- V2.2's row `SBC 0x2A`, with the operand in B. -/
theorem test_sbcr_b : afterAF (.sbcr .b) ((withAF 0x3B 0x10).writeReg8 .b 0x2A) = some (0x10#8, 0x40#8) := by decide
theorem test_andr_a : afterAF (.andr .a) (withAF 0x5A 0x80) = some (0x5A#8, 0x20#8) := by decide
theorem test_orr_a : afterAF (.orr .a) (withAF 0x5A 0x20) = some (0x5A#8, 0x00#8) := by decide
theorem test_xorr_a : afterAF (.xorr .a) (withAF 0x5A 0xC0) = some (0x00#8, 0x80#8) := by decide

theorem test_addm : afterAF (.addm .hl) (pointing .hl 0xC000 0x0F (withAF 0x01 0)) = some (0x10#8, 0x20#8) := by decide
theorem test_subm : afterAF (.subm .hl) (pointing .hl 0xC000 0x0F (withAF 0x10 0)) = some (0x01#8, 0x60#8) := by decide
theorem test_andm : afterAF (.andm .hl) (pointing .hl 0xC000 0x0F (withAF 0xF0 0)) = some (0x00#8, 0xA0#8) := by decide
theorem test_orm : afterAF (.orm .hl) (pointing .hl 0xC000 0x0F (withAF 0x00 0)) = some (0x0F#8, 0x00#8) := by decide
theorem test_xorm : afterAF (.xorm .hl) (pointing .hl 0xC000 0x0F (withAF 0x0F 0)) = some (0x00#8, 0x80#8) := by decide
theorem test_adcm : afterAF (.adcm .hl) (pointing .hl 0xC000 0x0F (withAF 0x00 0x90)) = some (0x10#8, 0x00#8) := by decide
theorem test_sbcm_true3 :
    afterAF (.sbcm .hl) (pointing .hl 0xC000 0x0F (withAFTrue3 0x20 0x10)) = some (0x10#8, 0x60#8) := by decide

/-! ### Loads and stores (V3.1, V3.2) -/

theorem test_mov_f_b :
    after (exec (.mov .f .b) (State.reset.writeReg8 .b 0x12)) (·.readReg8 .f) = some 0x10#8 := by decide
theorem test_ldp_h_hl :
    after (exec (.ldp .h .hl) (pointing .hl 0xC123 0x77 State.reset)) (·.readReg16 .hl) = some 0x7723#16 := by decide
theorem test_stp :
    after (exec (.stp .hl .a) ((withAF 0x77 0).writePair .hl 0xC123)) (·.mem) = some [(0xC123, 0x77#8)] := by decide
theorem test_lda_f :
    after (exec (.lda .f 0xD002) (State.reset.extWrite Config.env 0xD002 0xFF)) (·.readReg8 .f) = some 0xF0#8 := by decide
theorem test_sta_f : after (exec (.sta 0xD001 .f) (withAF 0 0xB0)) (·.mem) = some [(0xD001, 0xB0#8)] := by decide
theorem test_ldi_wraps :
    after (exec (.ldi .d) ((((State.reset.extWrite Config.env 0x0000 0xC0).extWrite Config.env 0xFFFF 0x34).extWrite Config.env 0xC034 0x99).writePc 0xFFFE))
      (fun t => (t.readReg8 .d, t.regs.pc)) = some (0x99#8, 0xFFFE#16) := by decide
theorem test_sti :
    after (exec (.sti .a) ((((withAF 0xA5 0).extWrite Config.env 0x0151 0x10).extWrite Config.env 0x0152 0xD0).writePc 0x0150)) (·.mem) =
      some [(0x0151, 0x10#8), (0x0152, 0xD0#8), (0xD010, 0xA5#8)] := by decide
theorem test_ld16 : after (exec (.ld16 .hl 0x1234) State.reset) (fun t => (t.readReg8 .h, t.readReg8 .l)) =
    some (0x12#8, 0x34#8) := by decide

/-! ### 16-bit increment and decrement, stack (V4.1, V5.1, V5.2) -/

theorem test_inc16_wraps :
    after (exec (.inc16 .de) ((withAF 0 0xF0).writePair .de 0xFFFF)) (fun t => (t.readPair .de, t.readReg8 .f)) =
      some (0x0000#16, 0xF0#8) := by decide
theorem test_dec16_wraps :
    after (exec (.dec16 .hl) State.reset) (fun t => (t.readPair .hl, t.readReg8 .f)) = some (0xFFFF#16, 0x00#8) := by decide
theorem test_push_first :
    after (exec (.push .bc) (State.reset.writePair .bc 0x1234)) (fun t => (t.regs.sp, t.mem)) =
      some (0xFFFE#16, [(0xFFFE, 0x34#8), (0xFFFF, 0x12#8)]) := by decide
theorem test_push_wraps :
    after (exec (.push .hl) ((State.reset.writePair .hl 0xABCD).writeSp 0x0001)) (fun t => (t.regs.sp, t.mem)) =
      some (0xFFFF#16, [(0x0000, 0xAB#8), (0xFFFF, 0xCD#8)]) := by decide
theorem test_pop_wraps :
    after (exec (.pop .bc) (((State.reset.extWrite Config.env 0x0000 0xAB).extWrite Config.env 0xFFFF 0xCD).writeSp 0xFFFF))
      (fun t => (t.readPair .bc, t.regs.sp)) = some (0xABCD#16, 0x0001#16) := by decide

/-! ### Memory port and decoder (V6.1) -/

theorem test_mrd8 : after (exec (.mrd8 0xC001) (State.reset.extWrite Config.env 0xC001 0xBE)) (·.resp) =
    some (some (.byte 0xBE)) := by decide
theorem test_mwr8_window :
    after (exec (.mwr8 0xFF10 0x80) State.reset) (fun t => (t.win[0x10], t.mem)) = some (0x80#8, []) := by decide
theorem test_mrd16_across_the_window_edge :
    after (exec (.mrd16 0xFEFF) { State.reset.extWrite Config.env 0xFEFF 0x5A with win := (Vector.replicate 76 0).set 0 0xA5 })
      (·.resp) = some (some (.word 0xA55A)) := by decide
theorem test_mwr16_across_the_window_edge :
    after (exec (.mwr16 0xFF4B 0x7788) State.reset) (fun t => (t.win[75], t.mem)) =
      some (0x88#8, [(0xFF4C, 0x77#8)]) := by decide

/-! ### I/O coordinator (V7, S8, S11) -/

theorem test_iosync : after (exec (.iosync 300) State.reset) (fun t => (t.acc, t.resp)) = some (300, some .ok) := by decide
theorem test_iosync_overflow :
    after (exec (.iosync 2) (acc4 14)) (fun t => (t.acc, t.fault)) = some (14, some .accOverflow) := by decide
theorem test_iotick_leaves_acc : after (exec (.iotick 256) State.reset) (·.acc) = some 0 := by decide
theorem test_iodrain : after (exec .iodrain { State.reset with acc := 600 }) (fun t => (t.acc, t.resp)) =
    some (0, some (.count 600)) := by decide
theorem test_ioreset :
    after (exec .ioreset { withAF 0x11 0 with win := Vector.replicate 76 0x33, acc := 9 })
      (fun t => (t.win[16], t.acc, t.readReg8 .a)) = some (0x00#8, 0, 0x11#8) := by decide
theorem test_iord : after (exec (.iord 0xFF10) { State.reset with win := (Vector.replicate 76 0).set 16 0x5A }) (·.resp) =
    some (some (.byte 0x5A)) := by decide
theorem test_iord_out_of_window : after (exec (.iord 0xFF4C) State.reset) (·.fault) = some (some .ioAddrRange) := by decide
theorem test_iowr : after (exec (.iowr 0xFF10 0x5A) State.reset) (·.win[16]) = some 0x5A#8 := by decide
theorem test_iowr_out_of_window : after (exec (.iowr 0xFEFF 1) State.reset) (fun t => (t.fault, t.mem)) =
    some (some .ioAddrRange, []) := by decide
theorem test_iodw : after (exec (.iodw 0xFF04 0xAB) State.reset) (·.win[4]) = some 0xAB#8 := by decide
theorem test_iodw_out_of_window : after (exec (.iodw 0xFF4C 1) State.reset) (·.fault) = some (some .ioAddrRange) := by decide

/-! ### The coordinator with the fixture peripherals -/

/-- V7.1: `DIVT` ticks before `TIMT`, which sees its byte. -/
theorem test_fixture_sync_order :
    inInstance [divt, cntr, timt, latch] (fun s => let t := s.ioSync fixtureEnv 300; (t.win[4], t.win[5], t.acc)) =
      some (0x01#8, 0x02#8, 300) := by decide
/-- V7.2: the other order. -/
theorem test_fixture_sync_wrong_order :
    inInstance [timt, divt] (fun s => let t := s.ioSync fixtureEnv 300; (t.win[4], t.win[5])) =
      some (0x01#8, 0x01#8) := by decide
/-- V6.2: a word read runs the read hook at the lower address first. -/
theorem test_fixture_word_read :
    inInstance [divt, cntr, timt, latch] (fun s => let r := s.memRead16 fixtureEnv 0xFF01; (r.1, r.2.pstates)) =
      some (0x0201#16, [[0], [2], [], [0, 0]]) := by decide
/-- V7.5, S9: the write hook runs once, with the byte already stored. -/
theorem test_fixture_write_hook :
    inInstance [divt, cntr, timt, latch]
      (fun s => let t := s.memWrite8 fixtureEnv 0xFF0F 0x05; (t.win[15], t.pstates)) =
      some (0xE5#8, [[0], [0], [], [1, 5]]) := by decide
/-- V7.3: a direct write runs no hook. -/
theorem test_fixture_direct_write :
    inInstance [latch] (fun s => let t := s.ioDirectWrite 15 0x05; (t.win[15], t.pstates)) =
      some (0x05#8, [[0, 0]]) := by decide
/-- V7.7, S10: the window is zeroed before the reset hooks run. -/
theorem test_fixture_reset :
    inInstance [divt, cntr, timt, latch]
      (fun s => let t := ({ s with win := Vector.replicate 76 0x33, pstates := [[7], [7], [], [7, 7]] }).ioReset fixtureEnv
                (t.win[15], t.win[16], t.pstates)) =
      some (0xE0#8, 0x00#8, [[0], [0], [], [0, 0]]) := by decide

/-- V6.2: a word write runs the write hook of the higher byte after the lower byte is stored. -/
theorem test_fixture_word_write :
    inInstance [divt, cntr, timt, latch]
      (fun s => let t := s.memWrite16 fixtureEnv 0xFF0E 0x0311; (t.win[14], t.win[15], t.pstates)) =
      some (0x11#8, 0xE3#8, [[0], [0], [], [1, 3]]) := by decide

/-! ### Another external memory (R56): its own operations answer, and a store to a read-only region is lost -/

theorem test_rom_ignores_a_store :
    overMemory 0 (fun s => let t := s.memWrite8 fixtureEnv 0x0150 0x99
                           ((t.memRead8 fixtureEnv 0x0150).1, t.memState, t.mem)) = some (0x42#8, [0], []) := by decide
theorem test_other_memory_stores_above :
    overMemory 0 (fun s => ((s.memWrite8 fixtureEnv 0xC000 0x99).memRead8 fixtureEnv 0xC000).1) =
      some 0x99#8 := by decide
/-- R58: the lower address is read first, here by a memory whose reads have a side effect; window bytes never reach it. -/
theorem test_other_memory_word_read :
    overMemory 1 (fun s => ((s.memRead16 fixtureEnv 0xC000).1, (s.memRead16 fixtureEnv 0xFEFF).2.memState)) =
      some (0x0201#16, [1]) := by decide

theorem test_construct_conflict : instanceOf [cntr, cntr] = .fault .ownershipConflict := rfl
theorem test_construct_out_of_window : instanceOf [⟨0, [0xFF4C], []⟩] = .fault .claimOutOfWindow := rfl

/-! ### Witnesses: states and operands that meet each statement's hypotheses -/

/-- An instance with the fixtures, as a state. -/
def fixtureState (ps : List PeripheralDecl) : State :=
  match instanceOf ps with
  | .next s => s
  | .fault _ => State.reset
  | .refused _ => State.reset

/-- An instance over another external memory, as a state. -/
def otherState : State := { State.reset with cfg := { State.reset.cfg with extMem := .other 7 } }

theorem witness_RstInputResetsTheBlock : (issued [.rst]).inbox = .rst :: [] := rfl

theorem witness_StepRunsTheDecodedCommand :
    (issued [.cmd 0x1000000000FF#48]).inbox = .cmd 0x1000000000FF#48 :: [] ∧
    (issued [.cmd 0x1000000000FF#48]).fault = none ∧ decode 0x1000000000FF#48 = .ok (.add 0xFF) := ⟨rfl, rfl, rfl⟩

theorem witness_MalformedWordLatchesItsCodeOnly :
    (∀ w, (issued [.cmd w]).inbox = .cmd w :: [] ∧ (issued [.cmd w]).fault = none) ∧
    decode 0x870000000000#48 = .error .badOp ∧ decode 0x100000000100#48 = .error .reservedNonzero ∧
    decode 0x018000000000#48 = .error .badReg8Id ∧ decode 0x503000000000#48 = .error .badReg16Id ∧
    decode 0x054000000000#48 = .error .badFlagId := ⟨fun _ => ⟨rfl, rfl⟩, rfl, rfl, rfl, rfl, rfl⟩

theorem witness_StoppedBlockRefusesEveryWord :
    let s := { issued [.cmd 0x1000000000FF#48] with fault := some .badOp }
    s.inbox = .cmd 0x1000000000FF#48 :: [] ∧ s.fault = some .badOp := ⟨rfl, rfl⟩

theorem witness_OnlyRstClearsTheLatch :
    (∃ t, step { issued [.rst] with fault := some .badOp } = .next t) ∧
    (∃ t, step { issued [.cmd 0#48] with fault := some .badOp } = .next t) := ⟨⟨_, rfl⟩, ⟨_, rfl⟩⟩

theorem witness_EveryStepCompletesAndEveryWordIsAnswered :
    (∃ t, (issued [.cmd 0x800000000000#48]).inbox = .cmd 0x800000000000#48 :: [] ∧
      step (issued [.cmd 0x800000000000#48]) = .next t) ∧
    State.reset.inbox = [] := ⟨⟨_, rfl, rfl⟩, rfl⟩

theorem witness_EncodeOfDecodeIsTheWord : decode 0x8100FFFFFFFF#48 = .ok (.iotick 0xFFFFFFFF) := rfl

/-- Both sides of every edge of the reserved ranges (R89). -/
theorem witness_ReservedOpsAndOnlyTheyAreBadOp :
    rejects 0x010000000000#48 .badOp = false ∧ rejects 0x070000000000#48 .badOp = false ∧
    rejects 0x0F0000000000#48 .badOp = true ∧ rejects 0x100000000000#48 .badOp = false ∧
    rejects 0x160000000000#48 .badOp = false ∧ rejects 0x1F0000000000#48 .badOp = true ∧
    rejects 0x200000000000#48 .badOp = false ∧ rejects 0x260000000000#48 .badOp = false ∧
    rejects 0x270000000000#48 .badOp = true ∧ rejects 0x2F0000000000#48 .badOp = true ∧
    rejects 0x360000000000#48 .badOp = false ∧ rejects 0x370000000000#48 .badOp = true ∧
    rejects 0x470000000000#48 .badOp = false ∧ rejects 0x4F0000000000#48 .badOp = true ∧
    rejects 0x510000000000#48 .badOp = false ∧ rejects 0x520000000000#48 .badOp = true ∧
    rejects 0x610000000000#48 .badOp = false ∧ rejects 0x620000000000#48 .badOp = true ∧
    rejects 0x730000000000#48 .badOp = false ∧ rejects 0x740000000000#48 .badOp = true ∧
    rejects 0x7F0000000000#48 .badOp = true ∧ rejects 0x800000000000#48 .badOp = false ∧
    rejects 0x860000000000#48 .badOp = false := by decide

/-- A word for each outcome of each check. -/
theorem witness_DecodeReportsTheFirstFailingCheck :
    firstFailure 0x000000000000#48 = some .badOp ∧ firstFailure 0x40F900000001#48 = some .reservedNonzero ∧
    firstFailure 0x418300000000#48 = some .badReg8Id ∧ firstFailure 0x410300000000#48 = some .badReg16Id ∧
    firstFailure 0x054000000000#48 = some .badFlagId ∧ firstFailure 0x053000000000#48 = none := by decide

theorem witness_Wr8WritesTheRegisterNamed : (Reg8.f = .f) ∧ Reg8.a ∉ [Reg8.f] := by decide
theorem witness_Wr16AndLd16WriteTheRegisterNamed : Reg16.pc ≠ .sp ∧ Reg8.f ∉ halves .sp := by decide
theorem witness_SetfAndClrfChangeTheFlagNamed : FlagId.z ≠ .c := by decide

/-- V2.2: the two carry modes at the boundaries, for both functions. -/
theorem witness_CarryModesDifferExactlyAtTheBoundaries :
    (adcResult = adcResult ∨ adcResult = sbcResult) ∧ (sbcResult = adcResult ∨ sbcResult = sbcResult) ∧
    (adcResult .fold 0 0x0F 1).h = false ∧ (adcResult .true3 0 0x0F 1).h = true ∧
    (sbcResult .fold 0 0xFF 1).c = false ∧ (sbcResult .true3 0 0xFF 1).c = true ∧
    (adcResult .fold 0 0x0E 1).h = (adcResult .true3 0 0x0E 1).h := ⟨.inl rfl, .inr rfl, by decide⟩

/-- Plain bytes: flat RAM and the window, at the edges (the premise of `AccessFrame.quiet`). -/
theorem witness_plain :
    State.reset.plainAt 0xFEFF = true ∧ State.reset.plainAt 0xFF00 = true ∧ State.reset.plainAt 0xFF4B = true ∧
    State.reset.plainAt 0xFF4C = true ∧ State.reset.plainAt 0x0000 = true ∧ State.reset.plainAt 0xFFFF = true := by decide

/-- Accesses in the window alone (the premise of `AccessFrame.inWindow`), over another external memory. -/
theorem witness_inWindow : windowOffset? 0xFF00 ≠ none ∧ windowOffset? 0xFF4B ≠ none ∧
    otherState.plainAt 0xFF4B = true ∧ otherState.plainAt 0xFF4C = false := by decide

/-- An external byte outside the stored ones (the premise of `AccessFrame.external`). -/
theorem witness_external : State.reset.cfg.extMem = .flatRam ∧ windowOffset? 0xFEFF = none ∧ windowOffset? 0xFF4C = none ∧
    (0xFEFF#16) ∉ [0xFF00#16, 0xFF01#16] := by decide

/-- `pc` at the two places where the immediate wraps (V3.2). -/
theorem witness_LdiLoadsThroughTheImmediateAfterPc :
    let s := ((State.reset.extWrite Config.env 0x0000 0xC0).extWrite Config.env 0xFFFF 0x34).writePc 0xFFFE
    s.plainAt (s.regs.pc + 1) = true ∧ s.plainAt (s.regs.pc + 2) = true ∧
      s.plainAt (lowThenHighRead Config.env s (s.regs.pc + 1)).1 = true := by decide
theorem witness_StiStoresThroughTheImmediateAfterPc :
    let s := ((State.reset.extWrite Config.env 0x0000 0xC0).extWrite Config.env 0x0001 0xC1).writePc 0xFFFF
    s.plainAt (s.regs.pc + 1) = true ∧ s.plainAt (s.regs.pc + 2) = true ∧
      s.plainAt (lowThenHighRead Config.env s (s.regs.pc + 1)).1 = true := by decide
theorem witness_LdpAndLdaLoadTheByteAtTheirAddress :
    State.reset.plainAt (State.reset.readPair .hl) = true ∧ State.reset.plainAt 0xFF4B = true := by decide
theorem witness_StpAndStaStoreTheRegisterAtTheirAddress :
    State.reset.plainAt (State.reset.readPair .hl) = true ∧ State.reset.plainAt 0xFF4B = true := by decide
theorem witness_StaThenLdaCopiesARegister : State.reset.plainAt 0xFF4B = true := by decide

theorem witness_PushStoresThePairBelowSp :
    let s := State.reset.writeSp 0x0001
    s.plainAt (s.regs.sp - 2) = true ∧ s.plainAt (s.regs.sp - 2 + 1) = true := by decide
theorem witness_PopLoadsThePairAtSp :
    let s := State.reset.writeSp 0xFFFF
    s.plainAt s.regs.sp = true ∧ s.plainAt (s.regs.sp + 1) = true := by decide
theorem witness_PushThenPopCopiesThePair :
    State.reset.plainAt (State.reset.regs.sp - 2) = true ∧ State.reset.plainAt (State.reset.regs.sp - 1) = true := by decide

/-- The four clauses of the decoder, at the edges of the window. -/
theorem witness_ByteReadGoesThroughTheDecoder :
    (¬ (0xFF00 ≤ (0xFEFF#16).toNat ∧ (0xFEFF#16).toNat ≤ 0xFF4B)) ∧
    (¬ (0xFF00 ≤ (0xFF4C#16).toNat ∧ (0xFF4C#16).toNat ≤ 0xFF4B)) ∧
    State.reset.cfg.extMem = .flatRam ∧ otherState.cfg.extMem = .other 7 ∧
    ((0xFF00#16).toNat = 0xFF00 + (0 : Offset).val ∧ State.reset.cfg.owner[(0 : Offset)] = none) ∧
    ((0xFF4B#16).toNat = 0xFF00 + (75 : Offset).val ∧ State.reset.cfg.owner[(75 : Offset)] = none) ∧
    (let s := fixtureState [edges]
     s.cfg.owner[(0 : Offset)] = some 0 ∧ s.cfg.owner[(75 : Offset)] = some 0 ∧
     s.cfg.peripherals[0]? = some edges ∧ s.pstates[0]? = some [0]) := by decide

/-- `ByteWriteGoesThroughTheDecoder` has the same hypotheses, met here by a peripheral that is not the first. -/
theorem witness_ByteWriteGoesThroughTheDecoder :
    (¬ (0xFF00 ≤ (0xFF4C#16).toNat ∧ (0xFF4C#16).toNat ≤ 0xFF4B)) ∧
    State.reset.cfg.extMem = .flatRam ∧ otherState.cfg.extMem = .other 7 ∧
    State.reset.cfg.owner[(75 : Offset)] = none ∧
    (let s := fixtureState [divt, cntr, timt, latch]
     (0xFF0F#16).toNat = 0xFF00 + (15 : Offset).val ∧ s.cfg.owner[(15 : Offset)] = some 3 ∧
     s.cfg.peripherals[3]? = some latch ∧ s.pstates[3]? = some [0, 0]) := by decide

theorem witness_WordsAreTwoBytesLowFirstAndReadBack :
    State.reset.plainAt 0xFFFF = true ∧ State.reset.plainAt (0xFFFF + 1) = true ∧ (0x0001#16) ≠ 0xFFFF ∧
    (0x0001#16) ≠ 0xFFFF + 1 := by decide
theorem witness_Mrd8AndMrd16AnswerWhatTheyRead :
    State.reset.plainAt 0xFEFF = true ∧ State.reset.plainAt (0xFEFF + 1) = true := by decide
theorem witness_Mwr8AndMwr16StoreTheirValue :
    State.reset.plainAt 0xFF4B = true ∧ State.reset.plainAt (0xFF4B + 1) = true := by decide

/-- Unbounded; finite with the sum at its last value; finite with the sum one past it. -/
theorem witness_IosyncAccumulatesAndTicks :
    State.reset.cfg.accWidth = none ∧
    ((acc4 14).cfg.accWidth = some 4 ∧ (acc4 14).acc + (1 : Cycles).toNat ≤ 2 ^ 4 - 1) ∧
    ((acc4 14).cfg.accWidth = some 4 ∧ 2 ^ 4 - 1 < (acc4 14).acc + (2 : Cycles).toNat) := by decide
theorem witness_TwoSyncsThenDrainGiveTheSum : State.reset.cfg.accWidth = none ∧ State.reset.acc = 0 := ⟨rfl, rfl⟩

theorem witness_IordAnswersTheWindowByte :
    (0xFF00 ≤ (0xFF00#16).toNat ∧ (0xFF00#16).toNat ≤ 0xFF4B ∧ State.reset.plainAt 0xFF00 = true) ∧
    (0xFF00 ≤ (0xFF4B#16).toNat ∧ (0xFF4B#16).toNat ≤ 0xFF4B ∧ State.reset.plainAt 0xFF4B = true) := by decide
theorem witness_IowrAndIodwStoreTheWindowByte :
    (0xFF00 ≤ (0xFF4B#16).toNat ∧ (0xFF4B#16).toNat ≤ 0xFF4B ∧ State.reset.plainAt 0xFF4B = true) ∧
    (0xFF00#16) ≠ 0xFF4B := by decide
theorem witness_IoCommandsOutsideTheWindowFault :
    ¬ (0xFF00 ≤ (0xFEFF#16).toNat ∧ (0xFEFF#16).toNat ≤ 0xFF4B) ∧
    ¬ (0xFF00 ≤ (0xFF4C#16).toNat ∧ (0xFF4C#16).toNat ≤ 0xFF4B) := by decide
theorem witness_UnownedWindowByteRoundTrip :
    0xFF00 ≤ (0xFF00#16).toNat ∧ (0xFF00#16).toNat ≤ 0xFF4B ∧ State.reset.plainAt 0xFF00 = true := by decide

theorem witness_OwnershipFollowsTheClaims :
    (∃ e, instanceOf [cntr, cntr] = .fault e) ∧ (∃ e, instanceOf [⟨0, [0xFF4C], []⟩] = .fault e) ∧
    (∃ s, instanceOf [edges, divt] = .next s) :=
  ⟨⟨.ownershipConflict, rfl⟩, ⟨.claimOutOfWindow, rfl⟩, ⟨_, rfl⟩⟩
theorem witness_ConstructedInstancesMeetTheInvariant :
    Memory.wf [] ∧ ∃ s, construct fixtureEnv 0x0100 .true3 (some 8) (.other 0) [edges, divt] [] [0] = .next s :=
  ⟨⟨List.Pairwise.nil, fun _ h => nomatch h⟩, ⟨_, rfl⟩⟩

/-- The reset state with a command issued meets the invariant, and its step is a next state. -/
theorem witness_EveryStepKeepsTheInvariant :
    (issued [.cmd 0x1000000000FF#48]).Inv ∧ ∃ t, step (issued [.cmd 0x1000000000FF#48]) = .next t :=
  ⟨⟨⟨List.Pairwise.nil, fun _ h => nomatch h⟩, by decide, rfl, rfl, fun _ h => nomatch h⟩, ⟨_, rfl⟩⟩
theorem witness_EveryStepKeepsTheInstance : ∃ t, step (issued [.rst]) = .next t := ⟨_, rfl⟩

theorem witness_OnlyNamedCommandsWritePcAndSp :
    (∃ t, exec (.push .bc) State.reset = .next t) ∧ (∃ t, exec (.ldi .a) State.reset = .next t) := ⟨⟨_, rfl⟩, ⟨_, rfl⟩⟩
theorem witness_OnlyNamedCommandsWriteFlags :
    (∃ t, exec (.inc16 .bc) State.reset = .next t) ∧ writesF (.inc16 .bc) = false ∧ writesF (.pop .hl) = false :=
  ⟨⟨_, rfl⟩, rfl, rfl⟩
theorem witness_OnlyCoordinatorCommandsChangeAcc :
    (∃ t, exec (.iotick 4) State.reset = .next t) ∧ (∀ n, Instr.iotick 4 ≠ .iosync n) ∧
      Instr.iotick 4 ≠ .iodrain ∧ Instr.iotick 4 ≠ .ioreset :=
  ⟨⟨_, rfl⟩, (fun _ h => nomatch h), (fun h => nomatch h), fun h => nomatch h⟩
theorem witness_OnlyStoringCommandsChangeExternalMemory :
    (∃ t, exec (.iowr 0xFF10 1) State.reset = .next t) ∧ storesToMemory (.iowr 0xFF10 1) = false ∧
    loadsFromMemory (.iowr 0xFF10 1) = false ∧ State.reset.cfg.extMem = .flatRam := ⟨⟨_, rfl⟩, rfl, rfl, rfl⟩
theorem witness_WellFormedCommandsRaiseNothing :
    State.reset.running ∧ (Instr.iord 0xFF4B).wellFormed = true ∧ (Instr.iosync 5).wellFormed = true ∧
      State.reset.accFits 5 = true := ⟨rfl, by decide⟩

end Sys2Proof.Tests
end

section
/-! PROOFS. The command port: how a step takes a command word and runs it (00_scope.md R8, 30_encoding.md R88). -/

namespace Sys2Proof.Claims

open Sys2Proof Sys2Proof.Machine

/-- A step with a command word next takes the word from the inbox and puts it at the block (R8). -/
theorem step_of_inbox_cmd {s : State} {w : Command} {rest : List HostInput} (hinbox : s.inbox = .cmd w :: rest) :
    step s = issue w { s with inbox := rest } := by
  simp only [step, runInput, State.takeInput, hinbox]

/-- A running block executes a word that passes the decode checks (step 5 of R88). -/
theorem issue_of_decode_ok {s : State} {w : Command} {i : Instr} (hrun : s.fault = none) (hdec : decode w = .ok i) :
    issue w s = exec i s := by
  simp only [issue, hrun, hdec]

/-- Settles O3: the step puts the word at the block, and taking the word leaves the latch clear. -/
theorem stepRunsTheDecodedCommand : Obligations.StepRunsTheDecodedCommand := by
  intro s w rest i hinbox hrun hdec
  calc step s = issue w { s with inbox := rest } := step_of_inbox_cmd hinbox
    _ = exec i { s with inbox := rest } := issue_of_decode_ok hrun hdec

end Sys2Proof.Claims
end

section
/-! PROOFS. The machine's elementary updates: which of them each command may make, and that every command that runs is a
sequence of those. What holds of each update, or is kept by each, then holds of every command and of every step. -/

namespace Sys2Proof.Machine

open Sys2Proof Sys2Proof.Claims

/-! ### The elementary updates -/

/-- The elementary updates of the state that the command `i` may make, each under the condition on `i` that the tables of the
spec give: writers of `pc` and `sp` (R25, R28), of F (R33), of memory (R62), of `Acc` (R225). -/
inductive Update (i : Instr) : State → State → Prop where
  | respond (s : State) (v : Response) : Update i s (s.respond v)
  | raiseViolation (s : State) (c : Violation) : Update i s (s.raiseViolation c)
  | writeReg8 (s : State) (r : Reg8) (v : Byte) (hf : r = .f → writesF i = true) : Update i s (s.writeReg8 r v)
  | writePc (s : State) (v : Word) (hi : i = .wr16 .pc v) : Update i s (s.writePc v)
  | writeSp (s : State) (v : Word) (hi : (∃ w, i = .wr16 .sp w) ∨ (∃ p, i = .push p) ∨ ∃ p, i = .pop p) :
      Update i s (s.writeSp v)
  | memRead8 (s : State) (a : Word) (hi : loadsFromMemory i = true) : Update i s (s.memRead8 Config.env a).2
  | memWrite8 (s : State) (a : Word) (v : Byte) (hi : storesToMemory i = true) :
      Update i s (s.memWrite8 Config.env a v)
  | ioRead (s : State) (a : Word) (o : Offset) : Update i s (s.ioRead Config.env a o).2
  | ioWrite (s : State) (a : Word) (o : Offset) (v : Byte) : Update i s (s.ioWrite Config.env a o v)
  | ioDirectWrite (s : State) (o : Offset) (v : Byte) : Update i s (s.ioDirectWrite o v)
  | ioReset (s : State) (hi : i = .ioreset) : Update i s (s.ioReset Config.env)
  | ioTick (s : State) (n : Cycles) : Update i s (s.ioTick Config.env n)
  | ioSync (s : State) (n : Cycles) (hi : i = .iosync n) (hfits : s.accFits n = true) :
      Update i s (s.ioSync Config.env n)
  | ioDrain (s : State) (hi : i = .iodrain) : Update i s s.ioDrain.2

/-- A sequence of elementary updates of the command `i`. -/
abbrev Updates (i : Instr) : State → State → Prop := Relation.ReflTransGen (Update i)

/-- The outcome `o` is the next state that some updates of `i` lead to from `s`. -/
def EndsAfterUpdates (i : Instr) (s : State) (o : Host.Outcome State Fault Refusal) : Prop :=
  ∃ t, o = .next t ∧ Updates i s t

variable {i : Instr} {s u : State}

/-! ### The composed operations as sequences of updates -/

theorem Updates.respond (h : Updates i s u) (v : Response) : EndsAfterUpdates i s (.next (u.respond v)) :=
  ⟨_, rfl, h.tail (.respond u v)⟩

theorem Updates.done (h : Updates i s u) : EndsAfterUpdates i s u.done := h.respond .ok

theorem Updates.memRead16 (h : Updates i s u) (a : Word) (hi : loadsFromMemory i = true) :
    Updates i s (u.memRead16 Config.env a).2 :=
  (h.tail (.memRead8 u a hi)).tail (.memRead8 _ (a + 1) hi)

theorem Updates.memWrite16 (h : Updates i s u) (a v : Word) (hi : storesToMemory i = true) :
    Updates i s (u.memWrite16 Config.env a v) :=
  (h.tail (.memWrite8 u a (lowByte v) hi)).tail (.memWrite8 _ (a + 1) (highByte v) hi)

theorem Updates.writeHalves (h : Updates i s u) (r q : Reg8) (hr : r ≠ .f) (hq : q ≠ .f) (hi lo : Byte) :
    Updates i s ((u.writeReg8 r hi).writeReg8 q lo) :=
  (h.tail (.writeReg8 u r hi (absurd · hr))).tail (.writeReg8 _ q lo (absurd · hq))

/-- A pair is written by its two halves, neither of which is F (R22). -/
theorem Updates.writePair (h : Updates i s u) (p : Pair) (v : Word) : Updates i s (u.writePair p v) := by
  cases p with
  | bc => exact h.writeHalves .b .c nofun nofun _ _
  | de => exact h.writeHalves .d .e nofun nofun _ _
  | hl => exact h.writeHalves .h .l nofun nofun _ _

theorem Updates.writeFlag (h : Updates i s u) (f : FlagId) (b : Bool) (hi : writesF i = true) :
    Updates i s (u.writeFlag f b) :=
  h.tail (.writeReg8 u .f _ fun _ => hi)

theorem Updates.writeAlu (h : Updates i s u) (r : AluResult) (hi : writesF i = true) : Updates i s (u.writeAlu r) :=
  (h.tail (.writeReg8 u .a r.value nofun)).tail (.writeReg8 _ .f _ fun _ => hi)

theorem Updates.loadReg8 (h : Updates i s u) (r : Reg8) (a : Word) (hi : loadsFromMemory i = true)
    (hf : r = .f → writesF i = true) : Updates i s (u.loadReg8 Config.env r a) :=
  (h.tail (.memRead8 u a hi)).tail (.writeReg8 _ r _ hf)

theorem Updates.storeReg8 (h : Updates i s u) (a : Word) (r : Reg8) (hi : storesToMemory i = true) :
    Updates i s (u.storeReg8 Config.env a r) :=
  h.tail (.memWrite8 u a (u.readReg8 r) hi)

/-! ### The operand forms -/

/-- A core function of the ALU changes the state by writing an ALU result alone (R139). -/
def WritesAluResult (core : State → Byte → State) : Prop := ∀ u v, ∃ r, core u v = u.writeAlu r

theorem Updates.core {core : State → Byte → State} (h : Updates i s u) (hcore : WritesAluResult core) (v : Byte)
    (hi : writesF i = true) : Updates i s (core u v) := by
  obtain ⟨r, hr⟩ := hcore u v
  rw [hr]
  exact h.writeAlu r hi

section
variable {core : State → Byte → State} (hcore : WritesAluResult core) (hi : writesF i = true)
include hcore hi

theorem aluValue_endsAfterUpdates (imm : Byte) : EndsAfterUpdates i s (aluValue core imm s) :=
  (Updates.core .refl hcore imm hi).done

theorem aluRegister_endsAfterUpdates (r : Reg8) : EndsAfterUpdates i s (aluRegister core r s) :=
  (Updates.core .refl hcore (s.readReg8 r) hi).done

theorem aluIndirect_endsAfterUpdates (p : Pair) (hl : loadsFromMemory i = true) :
    EndsAfterUpdates i s (aluIndirect core p s) :=
  (Updates.core (.single (.memRead8 s (s.readPair p) hl)) hcore _ hi).done
end

/-- A 16-bit register is written by WR16 of that register, or is a pair. -/
theorem wr16_updates (q : Reg16) (v : Word) : Updates (.wr16 q v) s (s.writeReg16 q v) := by
  cases q with
  | bc => exact Updates.writePair .refl .bc v
  | de => exact Updates.writePair .refl .de v
  | hl => exact Updates.writePair .refl .hl v
  | pc => exact .single (.writePc s v rfl)
  | sp => exact .single (.writeSp s v (.inl ⟨v, rfl⟩))

/-- A command of the coordinator ends in updates when it does so at every offset; outside the window it raises (R223). -/
theorem inWindowDo_endsAfterUpdates (a : Word) {cmd : Offset → State} (hcmd : ∀ o, Updates i s (cmd o)) :
    EndsAfterUpdates i s (s.inWindowDo a cmd) := by
  refine ⟨_, rfl, ?_⟩
  cases windowOffset? a with
  | none => exact .single (.raiseViolation s .ioAddrRange)
  | some o => exact hcmd o

/-- IOSYNC adds to an accumulator that the sum fits, and raises otherwise (U6). -/
theorem execIosync_endsAfterUpdates (n : Cycles) : EndsAfterUpdates (.iosync n) s (execIosync n s) := by
  refine ⟨_, rfl, ?_⟩
  split
  next hfits => exact .tail (.single (.ioSync s n rfl hfits)) (.respond _ .ok)
  next => exact .single (.raiseViolation s .accOverflow)

/-! ### Every command is a sequence of its updates -/

/-- Every command completes, by a sequence of the updates it may make. -/
theorem exec_endsAfterUpdates (i : Instr) (s : State) : EndsAfterUpdates i s (exec i s) := by
  cases i with
  | rd8 | rd16 | tstf => exact Updates.respond .refl _
  | wr8 r imm => exact Updates.done (.single (.writeReg8 s r imm (by simp [writesF])))
  | wr16 q imm => exact (wr16_updates q imm).done
  | setf f => exact (Updates.writeFlag .refl f true rfl).done
  | clrf f => exact (Updates.writeFlag .refl f false rfl).done
  | add imm | adc imm | sub imm | sbc imm | and imm | or imm | xor imm =>
    exact aluValue_endsAfterUpdates (fun _ _ => ⟨_, rfl⟩) rfl imm
  | addr r | adcr r | subr r | sbcr r | andr r | orr r | xorr r =>
    exact aluRegister_endsAfterUpdates (fun _ _ => ⟨_, rfl⟩) rfl r
  | addm p | adcm p | subm p | sbcm p | andm p | orm p | xorm p =>
    exact aluIndirect_endsAfterUpdates (fun _ _ => ⟨_, rfl⟩) rfl p rfl
  | mov rd rs => exact Updates.done (.single (.writeReg8 s rd (s.readReg8 rs) (by simp [writesF])))
  | ldp r p => exact (Updates.loadReg8 .refl r (s.readPair p) rfl (by simp [writesF])).done
  | stp p r => exact (Updates.storeReg8 .refl (s.readPair p) r rfl).done
  | lda r a16 => exact (Updates.loadReg8 .refl r a16 rfl (by simp [writesF])).done
  | sta a16 r => exact (Updates.storeReg8 .refl a16 r rfl).done
  | ldi r => exact ((Updates.memRead16 .refl _ rfl).loadReg8 r _ rfl (by simp [writesF])).done
  | sti r => exact ((Updates.memRead16 .refl _ rfl).storeReg8 _ r rfl).done
  | ld16 p imm => exact (Updates.writePair .refl p imm).done
  | inc16 p | dec16 p => exact (Updates.writePair .refl p _).done
  | push p => exact (Updates.memWrite16 (.single (.writeSp s _ (.inr (.inl ⟨p, rfl⟩)))) _ _ rfl).done
  | pop p =>
    exact Updates.done (((Updates.memRead16 .refl s.regs.sp rfl).writePair p _).tail
      (.writeSp _ _ (.inr (.inr ⟨p, rfl⟩))))
  | mrd8 a16 => exact Updates.respond (.single (.memRead8 s a16 rfl)) _
  | mwr8 a16 imm => exact Updates.done (.single (.memWrite8 s a16 imm rfl))
  | mrd16 a16 => exact (Updates.memRead16 .refl a16 rfl).respond _
  | mwr16 a16 imm => exact (Updates.memWrite16 .refl a16 imm rfl).done
  | ioreset => exact Updates.done (.single (.ioReset s rfl))
  | iotick cyc => exact Updates.done (.single (.ioTick s cyc))
  | iosync cyc => exact execIosync_endsAfterUpdates cyc
  | iodrain => exact Updates.respond (.single (.ioDrain s rfl)) _
  | iord a16 =>
    exact inWindowDo_endsAfterUpdates a16 fun o => .tail (.single (.ioRead s a16 o)) (.respond _ _)
  | iowr a16 imm =>
    exact inWindowDo_endsAfterUpdates a16 fun o => .tail (.single (.ioWrite s a16 o imm)) (.respond _ .ok)
  | iodw a16 imm =>
    exact inWindowDo_endsAfterUpdates a16 fun o => .tail (.single (.ioDirectWrite s o imm)) (.respond _ .ok)

/-! ### What every update keeps, every command and every step keeps -/

variable {t : State}

/-- A property that each update keeps is kept by a sequence of them. -/
theorem Updates.keeps {P : State → Prop} (hupdate : ∀ u v, Update i u v → P u → P v) (hs : P s)
    (hupdates : Updates i s t) : P t := by
  induction hupdates with
  | refl => exact hs
  | tail _ hlast ih => exact hupdate _ _ hlast ih

/-- A property that each update of a command keeps holds after the command. -/
theorem exec_keeps {P : State → Prop} (hupdate : ∀ u v, Update i u v → P u → P v) (hs : P s)
    (hexec : exec i s = .next t) : P t := by
  obtain ⟨t', ht', hupdates⟩ := exec_endsAfterUpdates i s
  cases hexec.symm.trans ht'
  exact hupdates.keeps hupdate hs

/-- A field that each update of a command leaves alone is unchanged by the command. -/
theorem exec_keeps_field {α : Type} (field : State → α) (hupdate : ∀ u v, Update i u v → field v = field u)
    (hexec : exec i s = .next t) : field t = field s :=
  exec_keeps (P := (field · = field s)) (fun u v h => (hupdate u v h).trans) rfl hexec

/-- A command word is refused with the latched code (R254), rejected by the decoder (R253), or executed. -/
theorem issue_cases {w : Command} (hissue : issue w s = .next t) :
    (∃ c, t = s.refuseStopped c) ∨ (∃ c, t = s.raiseViolation c) ∨ ∃ i, exec i s = .next t := by
  unfold issue at hissue
  split at hissue
  next c _ => cases hissue; exact .inl ⟨c, rfl⟩
  next =>
    split at hissue
    next c _ => cases hissue; exact .inr (.inl ⟨c, rfl⟩)
    next i _ => exact .inr (.inr ⟨i, hissue⟩)

/-- A step is idle, resets the block, or takes a command word and puts it at the block (R8, R265, R280). -/
theorem step_cases (hstep : step s = .next t) :
    t = s ∨ ∃ rest, t = { s with inbox := rest }.assertRst Config.env ∨
      ∃ w, issue w { s with inbox := rest } = .next t := by
  unfold step runInput State.takeInput at hstep
  cases hin : s.inbox with
  | nil =>
    rw [hin] at hstep
    cases hstep
    exact .inl rfl
  | cons x rest =>
    rw [hin] at hstep
    cases x with
    | rst => cases hstep; exact .inr ⟨rest, .inl rfl⟩
    | cmd w => exact .inr ⟨rest, .inr ⟨w, hstep⟩⟩

/-- What a property of the state must survive to hold after every step: the taking of an input, the reset input, the
refusal or the rejection of a word, and each update a command may make. -/
structure KeptByStep (P : State → Prop) : Prop where
  takeInput : ∀ s rest, P s → P { s with inbox := rest }
  assertRst : ∀ s, P s → P (s.assertRst Config.env)
  refuseStopped : ∀ s c, P s → P (s.refuseStopped c)
  raiseViolation : ∀ s c, P s → P (s.raiseViolation c)
  update : ∀ i s t, Update i s t → P s → P t

theorem KeptByStep.step {P : State → Prop} (hP : KeptByStep P) (hs : P s) (hstep : step s = .next t) : P t := by
  obtain rfl | ⟨rest, hrest⟩ := step_cases hstep
  · exact hs
  have htaken := hP.takeInput s rest hs
  obtain rfl | ⟨w, hissue⟩ := hrest
  · exact hP.assertRst _ htaken
  obtain ⟨c, rfl⟩ | ⟨c, rfl⟩ | ⟨i, hexec⟩ := issue_cases hissue
  · exact hP.refuseStopped _ c htaken
  · exact hP.raiseViolation _ c htaken
  · exact exec_keeps (hP.update i) htaken hexec

/-! ### What the updates leave unchanged -/

/-- The sum fits exactly when it is at most the last value of a finite accumulator (U6). -/
theorem accFits_iff (s : State) (n : Cycles) :
    s.accFits n = true ↔ ∀ w, s.cfg.accWidth = some w → s.acc + n.toNat ≤ 2 ^ w - 1 := by
  unfold State.accFits
  cases s.cfg.accWidth <;> simp

/-- What F holds after a write has a zero low nibble (R32). -/
theorem high_nibble_and_low_nibble (v : Byte) : v &&& 0xF0#8 &&& 0x0F#8 = 0#8 := by
  rw [BitVec.and_assoc]
  exact BitVec.and_zero

theorem writeReg8_flagsLowZero (r : Reg8) (v : Byte) (h : s.regs.f &&& 0x0F#8 = 0#8) :
    (s.writeReg8 r v).regs.f &&& 0x0F#8 = 0#8 := by
  cases r with
  | f => exact high_nibble_and_low_nibble v
  | a | b | c | d | e | h | l => exact h

namespace Update

theorem cfg_eq (h : Update i s t) : t.cfg = s.cfg := by
  cases h <;> simp

theorem pstates_length_eq (h : Update i s t) : t.pstates.length = s.pstates.length := by
  cases h <;> simp

theorem mem_wf (h : Update i s t) (hwf : s.mem.wf) : t.mem.wf := by
  cases h with
  | memWrite8 a v => exact memWrite8_wf Config.env s a v hwf
  | _ => simpa using hwf

theorem flagsLowZero (h : Update i s t) (hlow : s.regs.f &&& 0x0F#8 = 0#8) : t.regs.f &&& 0x0F#8 = 0#8 := by
  cases h with
  | writeReg8 r v => exact writeReg8_flagsLowZero r v hlow
  | writePc | writeSp => exact hlow
  | _ => simpa using hlow

theorem accInRange (h : Update i s t) (hacc : ∀ w, s.cfg.accWidth = some w → s.acc ≤ 2 ^ w - 1) :
    ∀ w, t.cfg.accWidth = some w → t.acc ≤ 2 ^ w - 1 := by
  cases h with
  | ioSync n _ hfits => simpa using (accFits_iff s n).1 hfits
  | ioReset | ioDrain => simp
  | _ => simpa using hacc

theorem inv (h : Update i s t) (hinv : s.Inv) : t.Inv where
  memCanonical := h.mem_wf hinv.memCanonical
  flagsLowZero := h.flagsLowZero hinv.flagsLowZero
  onePerPeripheral := by rw [h.pstates_length_eq, h.cfg_eq, hinv.onePerPeripheral]
  ownerBuilt := by rw [h.cfg_eq, hinv.ownerBuilt]
  accInRange := h.accInRange hinv.accInRange

/-- Only WR16 PC writes `pc` (R25). -/
theorem pc_eq (hi : ¬∃ v, i = .wr16 .pc v) (h : Update i s t) : t.regs.pc = s.regs.pc := by
  cases h with
  | writePc v hpc => exact absurd ⟨v, hpc⟩ hi
  | _ => simp

/-- Only WR16 SP, PUSH and POP write `sp` (R28). -/
theorem sp_eq (hi : ¬((∃ v, i = .wr16 .sp v) ∨ (∃ p, i = .push p) ∨ ∃ p, i = .pop p)) (h : Update i s t) :
    t.regs.sp = s.regs.sp := by
  cases h with
  | writeSp v hsp => exact absurd hsp hi
  | _ => simp

/-- Only the commands of the flag table write F (R33). -/
theorem readReg8_f_eq (hi : writesF i = false) (h : Update i s t) : t.readReg8 .f = s.readReg8 .f := by
  cases h with
  | writeReg8 r v hf =>
    have hr : Reg8.f ≠ r := fun e => by simp [hf e.symm] at hi
    simp [hr]
  | writePc v => exact readReg8_writePc s v .f
  | writeSp v => exact readReg8_writeSp s v .f
  | _ => exact readReg8_of_regs (by simp) .f

end Update

/-! ### The reset input -/

theorem assertRst_cfg (E : Env) (s : State) : (s.assertRst E).cfg = s.cfg := by
  simp [State.assertRst]

theorem assertRst_inv (E : Env) (hinv : s.Inv) : (s.assertRst E).Inv where
  memCanonical := by simpa [State.assertRst] using hinv.memCanonical
  flagsLowZero := by simp [State.assertRst, State.resetRegisters]
  onePerPeripheral := by simpa [State.assertRst] using hinv.onePerPeripheral
  ownerBuilt := by simpa [State.assertRst] using hinv.ownerBuilt
  accInRange := by simp [State.assertRst]

/-! ### The invariant and the parameters are kept by every step -/

/-- The invariant speaks of neither the command port nor the latch. -/
theorem inv_congr {s t : State} (hmem : t.mem = s.mem) (hregs : t.regs = s.regs) (hp : t.pstates = s.pstates)
    (hcfg : t.cfg = s.cfg) (hacc : t.acc = s.acc) (hinv : s.Inv) : t.Inv where
  memCanonical := hmem ▸ hinv.memCanonical
  flagsLowZero := hregs ▸ hinv.flagsLowZero
  onePerPeripheral := by rw [hp, hcfg, hinv.onePerPeripheral]
  ownerBuilt := by rw [hcfg, hinv.ownerBuilt]
  accInRange := by rw [hcfg, hacc]; exact hinv.accInRange

theorem keptByStep_inv : KeptByStep State.Inv where
  takeInput _ _ := inv_congr rfl rfl rfl rfl rfl
  assertRst _ := assertRst_inv Config.env
  refuseStopped _ _ := inv_congr rfl rfl rfl rfl rfl
  raiseViolation _ _ := inv_congr rfl rfl rfl rfl rfl
  update _ _ _ := Update.inv

theorem keptByStep_cfg (cfg : Parameters) : KeptByStep (·.cfg = cfg) where
  takeInput _ _ h := h
  assertRst s h := (assertRst_cfg Config.env s).trans h
  refuseStopped _ _ h := h
  raiseViolation _ _ h := h
  update _ _ _ hu h := hu.cfg_eq.trans h

end Sys2Proof.Machine
end

section
/-! PROOFS. The halves of a pair (10_state.md R22, R24). -/

namespace Sys2Proof.Machine

open Sys2Proof

/-- The first-named register of a pair, its high byte (R24). -/
def highHalf : Pair → Reg8
  | .bc => .b
  | .de => .d
  | .hl => .h

/-- The second-named register of a pair, its low byte (R24). -/
def lowHalf : Pair → Reg8
  | .bc => .c
  | .de => .e
  | .hl => .l

variable (s : State) (p : Pair)

theorem readPair_eq_join : s.readPair p = joinBytes (s.readReg8 (highHalf p)) (s.readReg8 (lowHalf p)) := by
  cases p <;> rfl

theorem readReg8_high_writePair (v : Word) : (s.writePair p v).readReg8 (highHalf p) = highByte v := by
  cases p <;> rfl

theorem readReg8_low_writePair (v : Word) : (s.writePair p v).readReg8 (lowHalf p) = lowByte v := by
  cases p <;> rfl

theorem readPair_writeReg8_high (u : Byte) :
    (s.writeReg8 (highHalf p) u).readPair p = joinBytes u (s.readReg8 (lowHalf p)) := by
  cases p <;> rfl

theorem readPair_writeReg8_low (u : Byte) :
    (s.writeReg8 (lowHalf p) u).readPair p = joinBytes (s.readReg8 (highHalf p)) u := by
  cases p <;> rfl

end Sys2Proof.Machine
end

section
/-! PROOFS. The statements of 10_state.md. -/

namespace Sys2Proof.Claims

open Sys2Proof Sys2Proof.Machine

/-- Settles O52: the reset input, the port and each elementary update of a command keep the invariant. -/
theorem everyStepKeepsTheInvariant : Obligations.EveryStepKeepsTheInvariant :=
  fun _ _ hinv hstep => keptByStep_inv.step hinv hstep

/-- Settles O53: of the updates a command may make, only `writePc` and `writeSp` reach `pc` and `sp`, and these are its
commands' alone. -/
theorem onlyNamedCommandsWritePcAndSp : Obligations.OnlyNamedCommandsWritePcAndSp := by
  intro i s t hexec
  constructor
  · by_cases hi : ∃ v, i = .wr16 .pc v
    · exact .inr hi
    · exact .inl (exec_keeps_field (·.regs.pc) (fun _ _ => Update.pc_eq hi) hexec)
  · by_cases hi : (∃ v, i = .wr16 .sp v) ∨ (∃ p, i = .push p) ∨ ∃ p, i = .pop p
    · exact .inr hi
    · exact .inl (exec_keeps_field (·.regs.sp) (fun _ _ => Update.sp_eq hi) hexec)

/-- Settles O54: a command outside the flag table writes no register F, and F is read through its high nibble. -/
theorem onlyNamedCommandsWriteFlags : Obligations.OnlyNamedCommandsWriteFlags := by
  refine ⟨fun i s t hexec hi => ?_, fun s => high_nibble_and_low_nibble s.regs.f⟩
  exact exec_keeps_field (·.readReg8 .f) (fun _ _ => Update.readReg8_f_eq hi) hexec

/-- Settles O58: the parameters are kept by every step, so they are those of the state before. -/
theorem everyStepKeepsTheInstance : Obligations.EveryStepKeepsTheInstance :=
  fun s _ hstep => (keptByStep_cfg s.cfg).step rfl hstep

/-- Settles O1: the flags and the pairs read zero because every 8-bit register does. -/
theorem resetStateIsZeroedWithPcAtTheVector : Obligations.ResetStateIsZeroedWithPcAtTheVector := by
  have hreg : ∀ r, State.reset.readReg8 r = 0#8 := by intro r; cases r <;> rfl
  have hflag : ∀ f, State.reset.readFlag f = false := fun f => by simp [State.readFlag, hreg]
  have hpair : ∀ p, State.reset.readPair p = 0#16 := fun p => by simp [readPair_eq_join, hreg, joinBytes]
  exact ⟨hreg, hflag, hpair, rfl, rfl, rfl⟩

/-- Settles O16: the rules of the halves, at each of the three pairs. -/
theorem pairsAliasTheirHalves : Obligations.PairsAliasTheirHalves := by
  intro s v u
  have hwrite (p : Pair) : (s.writePair p v).readReg8 (highHalf p) = highByte v ∧
      (s.writePair p v).readReg8 (lowHalf p) = lowByte v :=
    ⟨readReg8_high_writePair s p v, readReg8_low_writePair s p v⟩
  have hread (p : Pair) : (s.writeReg8 (highHalf p) u).readPair p = joinBytes u (s.readReg8 (lowHalf p)) ∧
      (s.writeReg8 (lowHalf p) u).readPair p = joinBytes (s.readReg8 (highHalf p)) u :=
    ⟨readPair_writeReg8_high s p u, readPair_writeReg8_low s p u⟩
  have hself (q : Reg16) : (s.writeReg16 q v).readReg16 q = v := by rw [readReg16_writeReg16, if_pos rfl]
  exact ⟨hwrite .bc, hwrite .de, hwrite .hl, rfl, rfl, hself, hread .bc, hread .de, hread .hl⟩

/-- Settles O51: memory lists nothing, there are no peripherals, and the accumulator is unbounded. -/
theorem resetMeetsTheInvariant : Obligations.ResetMeetsTheInvariant where
  memCanonical := Memory.wf_nil
  flagsLowZero := rfl
  onePerPeripheral := rfl
  ownerBuilt := rfl
  accInRange := nofun

end Sys2Proof.Claims
end

section
/-! PROOFS. The byte access by where its address lies and who owns it (20_memory.md R57, R59, 46_io.md R227, R229), and what
a word stored to plain memory leaves (R53, R60). -/

namespace Sys2Proof.Machine

open Sys2Proof

variable {E : Env} {s : State} {a : Word} {o : Offset} {i : Nat}

/-! ### The decoder's branches -/

theorem memRead8_of_external (ha : windowOffset? a = none) : s.memRead8 E a = s.extRead E a := by
  simp only [State.memRead8, ha]

theorem memRead8_of_window (ha : windowOffset? a = some o) : s.memRead8 E a = s.ioRead E a o := by
  simp only [State.memRead8, ha]

theorem memWrite8_of_external (v : Byte) (ha : windowOffset? a = none) : s.memWrite8 E a v = s.extWrite E a v := by
  simp only [State.memWrite8, ha]

theorem memWrite8_of_window (v : Byte) (ha : windowOffset? a = some o) : s.memWrite8 E a v = s.ioWrite E a o v := by
  simp only [State.memWrite8, ha]

/-! ### The coordinator's access by the owner of the offset -/

/-- The hook of a registered peripheral runs on its own state, the window and the next sample (R241). -/
theorem runHook_of_registered {p : PeripheralDecl} {st : PState}
    (hook : PeripheralHooks → PState → Window → Ext → PState × Window)
    (hp : s.cfg.peripherals[i]? = some p) (hst : s.pstates[i]? = some st) :
    s.runHook E i hook =
      { s with
        pstates := s.pstates.set i (hook (E.hooks p.kind) st s.win (E.ext s.extSeq)).1
        win := (hook (E.hooks p.kind) st s.win (E.ext s.extSeq)).2
        extSeq := s.extSeq + 1 } := by
  simp only [State.runHook, hp, hst]

theorem ioRead_of_unowned (hown : s.cfg.owner[o] = none) : s.ioRead E a o = (s.win[o], s) := by
  simp only [State.ioRead, hown]

theorem ioRead_of_owned (hown : s.cfg.owner[o] = some i) :
    s.ioRead E a o = ((s.runHook E i fun p st w x => p.onRead st w a x).win[o],
      s.runHook E i fun p st w x => p.onRead st w a x) := by
  simp only [State.ioRead, hown]

theorem ioWrite_of_unowned (v : Byte) (hown : s.cfg.owner[o] = none) : s.ioWrite E a o v = s.ioDirectWrite o v := by
  simp only [State.ioWrite, hown]

theorem ioWrite_of_owned (v : Byte) (hown : s.cfg.owner[o] = some i) :
    s.ioWrite E a o v = (s.ioDirectWrite o v).runHook E i fun p st w x => p.onWrite st w a v x := by
  simp only [State.ioWrite, hown]

/-! ### Another external memory's state, over the flat RAM -/

theorem memRead8_memState_of_flatRam (hflat : s.cfg.extMem = .flatRam) :
    (s.memRead8 E a).2.memState = s.memState := by
  cases ha : windowOffset? a with
  | none => rw [memRead8_of_external ha, extRead_flat E hflat]
  | some o => exact memRead8_inWindow E (by simp [ha])

theorem memWrite8_memState_of_flatRam (v : Byte) (hflat : s.cfg.extMem = .flatRam) :
    (s.memWrite8 E a v).memState = s.memState := by
  cases ha : windowOffset? a with
  | none => rw [memWrite8_of_external v ha, extWrite_flat E hflat]
  | some o => exact (memWrite8_inWindow E v (by simp [ha])).2

/-! ### A word stored over plain bytes -/

@[simp] theorem plainAt_memWrite16 (E : Env) (s : State) (a b v : Word) :
    (s.memWrite16 E a v).plainAt b = s.plainAt b :=
  plainAt_of_cfg (by simp) b

/-- A word stored over two plain bytes puts its high byte at the next address and its low byte at the address, and leaves
every other byte as before (R53, R60). -/
theorem peek_memWrite16_plain (v : Word) (ha : s.plainAt a = true) (ha' : s.plainAt (a + 1) = true) (b : Word) :
    (s.memWrite16 E a v).peek E b = if b = a + 1 then highByte v else if b = a then lowByte v else s.peek E b := by
  obtain ⟨-, -, -, hlow⟩ := memWrite8_plain E (lowByte v) ha
  obtain ⟨-, -, -, hhigh⟩ :=
    memWrite8_plain E (s := s.memWrite8 E a (lowByte v)) (highByte v) (by rw [plainAt_memWrite8, ha'])
  rw [State.memWrite16, hhigh, hlow]

theorem peek_memWrite16_low (v : Word) (ha : s.plainAt a = true) (ha' : s.plainAt (a + 1) = true) :
    (s.memWrite16 E a v).peek E a = lowByte v := by
  have hne : a ≠ a + 1 := by simp
  rw [peek_memWrite16_plain v ha ha', if_neg hne, if_pos rfl]

theorem peek_memWrite16_high (v : Word) (ha : s.plainAt a = true) (ha' : s.plainAt (a + 1) = true) :
    (s.memWrite16 E a v).peek E (a + 1) = highByte v := by
  rw [peek_memWrite16_plain v ha ha', if_pos rfl]

/-! ### What the updates leave of external memory (R62) -/

namespace Update

open Sys2Proof.Claims

variable {c : Instr} {t : State}

/-- Only a store through the decoder reaches the flat RAM. -/
theorem mem_eq (hstores : storesToMemory c = false) (h : Update c s t) : t.mem = s.mem := by
  cases h with
  | memWrite8 _ _ hi => simp [hstores] at hi
  | _ => simp

/-- Only an access through the decoder reaches another external memory. -/
theorem memState_eq (hloads : loadsFromMemory c = false) (hstores : storesToMemory c = false) (h : Update c s t) :
    t.memState = s.memState := by
  cases h with
  | memRead8 _ hi => simp [hloads] at hi
  | memWrite8 _ _ hi => simp [hstores] at hi
  | _ => simp

/-- Over the flat RAM an access through the decoder reaches no other external memory. -/
theorem memState_eq_of_flatRam (hflat : s.cfg.extMem = .flatRam) (h : Update c s t) : t.memState = s.memState := by
  cases h with
  | memRead8 a => exact memRead8_memState_of_flatRam hflat
  | memWrite8 a v => exact memWrite8_memState_of_flatRam v hflat
  | _ => simp

end Update

/-- A command keeps the state of another external memory in an instance over the flat RAM; which memory the instance has is
kept along with it. -/
theorem exec_memState_of_flatRam {c : Instr} {t : State} (hexec : exec c s = .next t)
    (hflat : s.cfg.extMem = .flatRam) : t.memState = s.memState := by
  have hkept : t.cfg.extMem = .flatRam ∧ t.memState = s.memState :=
    exec_keeps (P := fun u => u.cfg.extMem = .flatRam ∧ u.memState = s.memState)
      (fun _ _ hupdate ⟨hf, hm⟩ =>
        ⟨hupdate.cfg_eq ▸ hf, (hupdate.memState_eq_of_flatRam hf).trans hm⟩)
      ⟨hflat, rfl⟩ hexec
  exact hkept.2

end Sys2Proof.Machine
end

section
/-! PROOFS. The statements of 20_memory.md. -/

namespace Sys2Proof.Claims

open Sys2Proof Sys2Proof.Machine

/-- Settles O37: the two byte accesses are the model's own definition, and over plain memory each byte reads as it stands
after the two stores. -/
theorem wordsAreTwoBytesLowFirstAndReadBack : Obligations.WordsAreTwoBytesLowFirstAndReadBack := by
  intro E s a
  refine ⟨rfl, fun _ => rfl, fun ha => ⟨fun v => ?_, fun ha' v => ?_⟩⟩
  · obtain ⟨-, -, -, hpeek⟩ := memWrite8_plain E v ha
    exact ⟨by rw [hpeek, if_pos rfl], fun b hb => by rw [hpeek, if_neg hb]⟩
  · have hplain : (s.memWrite16 E a v).plainAt a = true := by rw [plainAt_memWrite16, ha]
    have hplain' : (s.memWrite16 E a v).plainAt (a + 1) = true := by rw [plainAt_memWrite16, ha']
    have hlow := peek_memWrite16_low (E := E) v ha ha'
    have hhigh := peek_memWrite16_high (E := E) v ha ha'
    refine ⟨?_, ?_, ?_, fun b hb hb' => ?_⟩
    · rw [memRead8_plain E hplain, hlow, lowByte]
    · rw [memRead8_plain E hplain', hhigh, highByte]
    · rw [memRead16_plain E hplain hplain', hlow, hhigh, joinBytes_halves]
    · rw [peek_memWrite16_plain v ha ha', if_neg hb', if_neg hb]

/-- Settles O56: of the updates a command may make, only the decoder's accesses reach external memory, and these are its
commands' alone. -/
theorem onlyStoringCommandsChangeExternalMemory : Obligations.OnlyStoringCommandsChangeExternalMemory := by
  intro i s t hexec
  have hmem (hstores : storesToMemory i = false) : t.mem = s.mem :=
    exec_keeps_field (·.mem) (fun _ _ => Update.mem_eq hstores) hexec
  have hmemState (hloads : loadsFromMemory i = false) (hstores : storesToMemory i = false) :
      t.memState = s.memState :=
    exec_keeps_field (·.memState) (fun _ _ => Update.memState_eq hloads hstores) hexec
  exact ⟨hmem, exec_memState_of_flatRam hexec, fun hloads hstores => ⟨hmem hstores, hmemState hloads hstores⟩⟩

/-- Settles O35: the decoder's branches of a read, the coordinator's by the owner of the byte. -/
theorem byteReadGoesThroughTheDecoder : Obligations.ByteReadGoesThroughTheDecoder := by
  intro E s a
  refine ⟨fun hout hflat => ?_, fun k hout hother => ?_, fun o hin hown => ?_, fun o i p st hin hown hp hst => ?_⟩
  · rw [memRead8_of_external (windowOffset?_eq_none.2 hout), extRead_flat E hflat]
  · rw [memRead8_of_external (windowOffset?_eq_none.2 hout), extRead_other E hother]
  · rw [memRead8_of_window (windowOffset?_eq_some.2 hin), ioRead_of_unowned hown]
  · rw [memRead8_of_window (windowOffset?_eq_some.2 hin), ioRead_of_owned hown, runHook_of_registered _ hp hst]

/-- Settles O36: the decoder's branches of a write; the owner's hook runs in the state that the store of the byte leaves. -/
theorem byteWriteGoesThroughTheDecoder : Obligations.ByteWriteGoesThroughTheDecoder := by
  intro E s a v
  refine ⟨fun hout hflat => ?_, fun k hout hother => ?_, fun o hin hown => ?_, fun o i p st hin hown hp hst => ?_⟩
  · rw [memWrite8_of_external v (windowOffset?_eq_none.2 hout), extWrite_flat E hflat]
  · rw [memWrite8_of_external v (windowOffset?_eq_none.2 hout), extWrite_other E hother]
  · rw [memWrite8_of_window v (windowOffset?_eq_some.2 hin), ioWrite_of_unowned v hown, State.ioDirectWrite]
  · rw [memWrite8_of_window v (windowOffset?_eq_some.2 hin), ioWrite_of_owned v hown]
    exact runHook_of_registered (s := s.ioDirectWrite o v) _ hp hst

end Sys2Proof.Claims
end

section
/-! PROOFS. The words that a row of the op map accepts (R82, R87): for each format, a word is accepted exactly when it packs
the operands of a command of the row. -/

namespace Sys2Proof

/-! ### A word by its fields (R80) -/

theorem pack_eq_iff {op : BitVec 8} {a b : BitVec 4} {x y : BitVec 16} {w : Command} :
    pack op a b x y = w ↔ opField w = op ∧ aField w = a ∧ bField w = b ∧ wField w = x ∧ xField w = y := by
  constructor
  · rintro rfl
    simp
  · rintro ⟨rfl, rfl, rfl, rfl, rfl⟩
    exact pack_fields w

theorem xField_eq_low8_iff {w : Command} {imm : Byte} :
    xField w = low8 imm ↔ xHighField w = 0 ∧ xLowField w = imm := by
  rw [xHighField_eq, xLowField_eq]
  constructor
  · intro h
    simp [h]
  · rintro ⟨hhigh, rfl⟩
    exact (low8_of_high_zero hhigh).symm

theorem xField_eq_zero_iff {w : Command} : xField w = 0 ↔ xHighField w = 0 ∧ xLowField w = 0 :=
  xField_eq_low8_iff (imm := 0)

theorem cycField_eq_iff {w : Command} {cyc : Cycles} :
    cycField w = cyc ↔ wField w = cycHigh cyc ∧ xField w = cycLow cyc := by
  rw [cycField_eq]
  constructor
  · rintro rfl
    simp
  · rintro ⟨hw, hx⟩
    rw [hw, hx, cyc_halves]

theorem unusedZero_iff {fmt : Format} {w : Command} : fmt.unusedZero w = true ↔
    (fmt.fields.a = false → aField w = 0) ∧ (fmt.fields.b = false → bField w = 0) ∧
      (fmt.fields.w = false → wField w = 0) ∧ (fmt.fields.xHigh = false → xHighField w = 0) ∧
        (fmt.fields.xLow = false → xLowField w = 0) := by
  simp only [Format.unusedZero, Bool.and_eq_true, Bool.or_eq_true, beq_iff_eq, ← Bool.not_eq_true,
    or_iff_not_imp_left, and_assoc]

/-! ### Operands that are read (R86) -/

theorem reg8OfId_eq_ok_iff {v : BitVec 4} {r : Reg8} : reg8OfId v = .ok r ↔ v = r.id :=
  ⟨fun h => (id_of_reg8OfId h).symm, fun h => h ▸ reg8OfId_id r⟩

theorem reg16OfId_eq_ok_iff {v : BitVec 4} {q : Reg16} : reg16OfId v = .ok q ↔ v = q.id :=
  ⟨fun h => (id_of_reg16OfId h).symm, fun h => h ▸ reg16OfId_id q⟩

theorem pairOfId_eq_ok_iff {v : BitVec 4} {p : Pair} : pairOfId v = .ok p ↔ v = p.id :=
  ⟨fun h => (id_of_pairOfId h).symm, fun h => h ▸ pairOfId_id p⟩

theorem flagOfId_eq_ok_iff {v : BitVec 4} {f : FlagId} : flagOfId v = .ok f ↔ v = f.id :=
  ⟨fun h => (id_of_flagOfId h).symm, fun h => h ▸ flagOfId_id f⟩

section
variable {ε α β : Type} {e : Except ε α} {i : β}

theorem exceptMap_eq_ok_iff {f : α → β} : e.map f = .ok i ↔ ∃ a, e = .ok a ∧ f a = i := by
  cases e <;> simp [Except.map]

theorem exceptBind_eq_ok_iff {f : α → Except ε β} : e.bind f = .ok i ↔ ∃ a, e = .ok a ∧ f a = .ok i := by
  cases e <;> simp [Except.bind]

end

/-! ### The words of a row -/

/-- The word passes the checks (1) to (3) of R88 in this row, which reads the command `i` from it. -/
def OpRow.Accepts (row : OpRow) (w : Command) (i : Instr) : Prop :=
  opField w = row.op ∧ row.fmt.unusedZero w = true ∧ row.make w = .ok i

theorem decode_of_accepts {row : OpRow} {w : Command} {i : Instr} (h : row.Accepts w i)
    (hrow : opRow? row.op = some row) : decode w = .ok i := by
  obtain ⟨hop, hzero, hmake⟩ := h
  simp only [decode, hop, hrow, hzero, if_true, hmake]

theorem accepts_of_decode {w : Command} {i : Instr} (hdec : decode w = .ok i) : ∃ row ∈ opMap, row.Accepts w i := by
  unfold decode at hdec
  split at hdec
  next => cases hdec
  next row hrow =>
    split at hdec
    next hzero =>
      have hop : row.op = opField w := by simpa using List.find?_some hrow
      exact ⟨row, List.mem_of_find?_eq_some hrow, hop.symm, hzero, hdec⟩
    next => cases hdec

section
variable {op : BitVec 8} {w : Command} {i : Instr}

/-! The formats with ids alone, or an id and a 16-bit value, do not depend on the kind of the id. -/

section
variable {α β : Type} {ofA : BitVec 4 → Except Violation α} {idA : α → BitVec 4}
  {ofB : BitVec 4 → Except Violation β} {idB : β → BitVec 4} {fmt : Format} {make : Command → Except Violation Instr}
  (hA : ∀ {v a}, ofA v = .ok a ↔ v = idA a) (hB : ∀ {v b}, ofB v = .ok b ↔ v = idB b)
include hA

theorem accepts_id {mk : α → Instr} (hfmt : fmt.fields = ⟨true, false, false, false, false⟩)
    (hmake : make w = (ofA (aField w)).map mk) :
    (OpRow.mk op fmt make).Accepts w i ↔ ∃ a, mk a = i ∧ pack op (idA a) 0 0 0 = w := by
  simp only [OpRow.Accepts, unusedZero_iff, hfmt, hmake, pack_eq_iff, xField_eq_zero_iff, exceptMap_eq_ok_iff, hA]
  aesop

theorem accepts_id_imm16 {mk : α → Word → Instr} (hfmt : fmt.fields = ⟨true, false, false, true, true⟩)
    (hmake : make w = (ofA (aField w)).map (mk · (xField w))) :
    (OpRow.mk op fmt make).Accepts w i ↔ ∃ a imm, mk a imm = i ∧ pack op (idA a) 0 0 imm = w := by
  simp only [OpRow.Accepts, unusedZero_iff, hfmt, hmake, pack_eq_iff, exceptMap_eq_ok_iff, hA]
  aesop

include hB in
theorem accepts_id_id {mk : α → β → Instr} (hfmt : fmt.fields = ⟨true, true, false, false, false⟩)
    (hmake : make w = (ofA (aField w)).bind fun a => (ofB (bField w)).map (mk a)) :
    (OpRow.mk op fmt make).Accepts w i ↔ ∃ a b, mk a b = i ∧ pack op (idA a) (idB b) 0 0 = w := by
  simp only [OpRow.Accepts, unusedZero_iff, hfmt, hmake, pack_eq_iff, xField_eq_zero_iff, exceptMap_eq_ok_iff,
    exceptBind_eq_ok_iff, hA, hB]
  aesop

end

/-! The sixteen formats of R82. -/

theorem accepts_n {j : Instr} : (OpRow.mk op .n (readNone j)).Accepts w i ↔ j = i ∧ pack op 0 0 0 0 = w := by
  simp only [OpRow.Accepts, unusedZero_iff, Format.fields, readNone, pack_eq_iff, xField_eq_zero_iff]
  aesop

theorem accepts_r {mk : Reg8 → Instr} :
    (OpRow.mk op .r (readReg8 mk)).Accepts w i ↔ ∃ r, mk r = i ∧ pack op r.id 0 0 0 = w :=
  accepts_id reg8OfId_eq_ok_iff rfl rfl

theorem accepts_q {mk : Reg16 → Instr} :
    (OpRow.mk op .q (readReg16 mk)).Accepts w i ↔ ∃ q, mk q = i ∧ pack op q.id 0 0 0 = w :=
  accepts_id reg16OfId_eq_ok_iff rfl rfl

theorem accepts_p {mk : Pair → Instr} :
    (OpRow.mk op .p (readPair mk)).Accepts w i ↔ ∃ p, mk p = i ∧ pack op p.id 0 0 0 = w :=
  accepts_id pairOfId_eq_ok_iff rfl rfl

theorem accepts_f {mk : FlagId → Instr} :
    (OpRow.mk op .f (readFlag mk)).Accepts w i ↔ ∃ f, mk f = i ∧ pack op f.id 0 0 0 = w :=
  accepts_id flagOfId_eq_ok_iff rfl rfl

theorem accepts_rx {mk : Reg8 → Byte → Instr} :
    (OpRow.mk op .rx (readReg8Imm8 mk)).Accepts w i ↔ ∃ r imm, mk r imm = i ∧ pack op r.id 0 0 (low8 imm) = w := by
  simp only [OpRow.Accepts, unusedZero_iff, Format.fields, readReg8Imm8, pack_eq_iff, xField_eq_low8_iff,
    exceptMap_eq_ok_iff, reg8OfId_eq_ok_iff]
  aesop

theorem accepts_qx {mk : Reg16 → Word → Instr} :
    (OpRow.mk op .qx (readReg16Imm16 mk)).Accepts w i ↔ ∃ q imm, mk q imm = i ∧ pack op q.id 0 0 imm = w :=
  accepts_id_imm16 reg16OfId_eq_ok_iff rfl rfl

theorem accepts_px {mk : Pair → Word → Instr} :
    (OpRow.mk op .px (readPairImm16 mk)).Accepts w i ↔ ∃ p imm, mk p imm = i ∧ pack op p.id 0 0 imm = w :=
  accepts_id_imm16 pairOfId_eq_ok_iff rfl rfl

theorem accepts_x8 {mk : Byte → Instr} :
    (OpRow.mk op .x8 (readImm8 mk)).Accepts w i ↔ ∃ imm, mk imm = i ∧ pack op 0 0 0 (low8 imm) = w := by
  simp only [OpRow.Accepts, unusedZero_iff, Format.fields, readImm8, pack_eq_iff, xField_eq_low8_iff]
  aesop

theorem accepts_rr {mk : Reg8 → Reg8 → Instr} :
    (OpRow.mk op .rr (readReg8Reg8 mk)).Accepts w i ↔ ∃ rd rs, mk rd rs = i ∧ pack op rd.id rs.id 0 0 = w :=
  accepts_id_id reg8OfId_eq_ok_iff reg8OfId_eq_ok_iff rfl rfl

theorem accepts_rp {mk : Reg8 → Pair → Instr} :
    (OpRow.mk op .rp (readReg8Pair mk)).Accepts w i ↔ ∃ r p, mk r p = i ∧ pack op r.id p.id 0 0 = w :=
  accepts_id_id reg8OfId_eq_ok_iff pairOfId_eq_ok_iff rfl rfl

theorem accepts_rw {mk : Reg8 → Word → Instr} :
    (OpRow.mk op .rw (readReg8Addr mk)).Accepts w i ↔ ∃ r a16, mk r a16 = i ∧ pack op r.id 0 a16 0 = w := by
  simp only [OpRow.Accepts, unusedZero_iff, Format.fields, readReg8Addr, pack_eq_iff, xField_eq_zero_iff,
    exceptMap_eq_ok_iff, reg8OfId_eq_ok_iff]
  aesop

theorem accepts_w {mk : Word → Instr} :
    (OpRow.mk op .w (readAddr mk)).Accepts w i ↔ ∃ a16, mk a16 = i ∧ pack op 0 0 a16 0 = w := by
  simp only [OpRow.Accepts, unusedZero_iff, Format.fields, readAddr, pack_eq_iff, xField_eq_zero_iff]
  aesop

theorem accepts_wx8 {mk : Word → Byte → Instr} :
    (OpRow.mk op .wx8 (readAddrImm8 mk)).Accepts w i ↔ ∃ a16 imm, mk a16 imm = i ∧ pack op 0 0 a16 (low8 imm) = w := by
  simp only [OpRow.Accepts, unusedZero_iff, Format.fields, readAddrImm8, pack_eq_iff, xField_eq_low8_iff]
  aesop

theorem accepts_wx16 {mk : Word → Word → Instr} :
    (OpRow.mk op .wx16 (readAddrImm16 mk)).Accepts w i ↔ ∃ a16 imm, mk a16 imm = i ∧ pack op 0 0 a16 imm = w := by
  simp only [OpRow.Accepts, unusedZero_iff, Format.fields, readAddrImm16, pack_eq_iff]
  aesop

theorem accepts_cy {mk : Cycles → Instr} :
    (OpRow.mk op .cy (readCycles mk)).Accepts w i ↔
      ∃ cyc, mk cyc = i ∧ pack op 0 0 (cycHigh cyc) (cycLow cyc) = w := by
  simp only [OpRow.Accepts, unusedZero_iff, Format.fields, readCycles, pack_eq_iff, ← cycField_eq_iff]
  aesop

end

/-! ### The words of the commands -/

/-- The row of each command, by the format of its word, accepts the word and reads the command. -/
theorem decode_encode (i : Instr) : decode (encode i) = .ok i := by
  cases i with
  | ioreset | iodrain => exact decode_of_accepts (accepts_n.2 ⟨rfl, rfl⟩) rfl
  | rd8 r | addr r | adcr r | subr r | sbcr r | andr r | orr r | xorr r | ldi r | sti r =>
    exact decode_of_accepts (accepts_r.2 ⟨r, rfl, rfl⟩) rfl
  | rd16 q => exact decode_of_accepts (accepts_q.2 ⟨q, rfl, rfl⟩) rfl
  | addm p | adcm p | subm p | sbcm p | andm p | orm p | xorm p | inc16 p | dec16 p | push p | pop p =>
    exact decode_of_accepts (accepts_p.2 ⟨p, rfl, rfl⟩) rfl
  | tstf f | setf f | clrf f => exact decode_of_accepts (accepts_f.2 ⟨f, rfl, rfl⟩) rfl
  | wr8 r imm => exact decode_of_accepts (accepts_rx.2 ⟨r, imm, rfl, rfl⟩) rfl
  | wr16 q imm => exact decode_of_accepts (accepts_qx.2 ⟨q, imm, rfl, rfl⟩) rfl
  | ld16 p imm => exact decode_of_accepts (accepts_px.2 ⟨p, imm, rfl, rfl⟩) rfl
  | add imm | adc imm | sub imm | sbc imm | and imm | or imm | xor imm =>
    exact decode_of_accepts (accepts_x8.2 ⟨imm, rfl, rfl⟩) rfl
  | mov rd rs => exact decode_of_accepts (accepts_rr.2 ⟨rd, rs, rfl, rfl⟩) rfl
  | ldp r p | stp p r => exact decode_of_accepts (accepts_rp.2 ⟨r, p, rfl, rfl⟩) rfl
  | lda r a16 | sta a16 r => exact decode_of_accepts (accepts_rw.2 ⟨r, a16, rfl, rfl⟩) rfl
  | mrd8 a16 | mrd16 a16 | iord a16 => exact decode_of_accepts (accepts_w.2 ⟨a16, rfl, rfl⟩) rfl
  | mwr8 a16 imm | iowr a16 imm | iodw a16 imm =>
    exact decode_of_accepts (accepts_wx8.2 ⟨a16, imm, rfl, rfl⟩) rfl
  | mwr16 a16 imm => exact decode_of_accepts (accepts_wx16.2 ⟨a16, imm, rfl, rfl⟩) rfl
  | iotick cyc | iosync cyc => exact decode_of_accepts (accepts_cy.2 ⟨cyc, rfl, rfl⟩) rfl

/-- In each row of the map, the word that packs the operands of a command is the one the encoder writes. -/
theorem encode_of_accepts : ∀ row ∈ opMap, ∀ w i, row.Accepts w i → encode i = w := by
  simp only [opMap, regFileRows, aluValueRows, aluRegisterRows, aluIndirectRows, loadStoreRows, incDecRows, stackRows,
    memPortRows, ioRows, List.forall_mem_append, List.forall_mem_cons, List.not_mem_nil, false_imp_iff, implies_true,
    and_true, accepts_n, accepts_r, accepts_q, accepts_p, accepts_f, accepts_rx, accepts_qx, accepts_px, accepts_x8,
    accepts_rr, accepts_rp, accepts_rw, accepts_w, accepts_wx8, accepts_wx16, accepts_cy, forall_exists_index, and_imp]
  and_intros <;> (intros; subst_vars; rfl)

end Sys2Proof
end

section
/-! PROOFS. The code with which the decoder rejects a word: that of the first failing check of R88. -/

namespace Sys2Proof

open Sys2Proof.Claims

/-! ### The code of a rejection -/

/-- The code of a rejection; none for what is accepted. -/
def failureOf {α : Type} : Except Violation α → Option Violation
  | .ok _ => none
  | .error c => some c

section
variable {α β γ : Type}

theorem failureOf_eq_some_iff {e : Except Violation α} {c : Violation} : failureOf e = some c ↔ e = .error c := by
  cases e <;> simp [failureOf]

theorem failureOf_eq_none_iff {e : Except Violation α} : failureOf e = none ↔ ∃ a, e = .ok a := by
  cases e <;> simp [failureOf]

theorem failureOf_ok (a : α) : failureOf (.ok a) = none := rfl

theorem failureOf_map (e : Except Violation α) (f : α → β) : failureOf (e.map f) = failureOf e := by
  cases e <;> rfl

/-- Of two ids read one after another, the first that fails is reported. -/
theorem failureOf_bind_map (e : Except Violation α) (g : Except Violation β) (f : α → β → γ) :
    failureOf (e.bind fun a => g.map (f a)) = (failureOf e).or (failureOf g) := by
  cases e <;> cases g <;> rfl

end

/-! ### The id checks (R86) -/

theorem failureOf_reg8OfId : ∀ v, failureOf (reg8OfId v) = idError .reg8 v := by decide

theorem failureOf_reg16OfId : ∀ v, failureOf (reg16OfId v) = idError .reg16 v := by decide

theorem failureOf_pairOfId : ∀ v, failureOf (pairOfId v) = idError .pair v := by decide

theorem failureOf_flagOfId : ∀ v, failureOf (flagOfId v) = idError .flag v := by decide

theorem idError_unused (v : BitVec 4) : idError .unused v = none := rfl

theorem idError_ne_badOp (k : IdKind) (v : BitVec 4) : idError k v ≠ some .badOp := by
  cases k <;> simp [idError]

/-- The code of the first id in the word that the format does not allow. -/
def Format.idFailure (fmt : Format) (w : Command) : Option Violation :=
  (idError (aKind fmt) (aField w)).or (idError (bKind fmt) (bField w))

/-- Each row of the map reads the ids of its format, the one in `A` first (R82, R88). -/
theorem failureOf_make : ∀ row ∈ opMap, ∀ w, failureOf (row.make w) = row.fmt.idFailure w := by
  simp [opMap, regFileRows, aluValueRows, aluRegisterRows, aluIndirectRows, loadStoreRows, incDecRows, stackRows,
    memPortRows, ioRows, Format.idFailure, aKind, bKind, readNone, readReg8, readReg16, readPair, readFlag, readReg8Imm8,
    readReg16Imm16, readPairImm16, readImm8, readReg8Reg8, readReg8Pair, readReg8Addr, readAddr, readAddrImm8,
    readAddrImm16, readCycles, failureOf_ok, failureOf_map, failureOf_bind_map, failureOf_reg8OfId, failureOf_reg16OfId,
    failureOf_pairOfId, failureOf_flagOfId, idError_unused]

/-! ### The must-be-zero bits (R81, R82) -/

theorem toNat_mod_eq_zero_iff {v : Command} : v.toNat % 2 ^ 40 = 0 ↔
    aField v = 0 ∧ bField v = 0 ∧ wField v = 0 ∧ xHighField v = 0 ∧ xLowField v = 0 := by
  simp only [← BitVec.toNat_inj, aField, bField, wField, xHighField, xLowField, BitVec.extractLsb'_toNat,
    Nat.shiftRight_eq_div_pow, BitVec.ofNat_eq_ofNat, BitVec.toNat_ofNat]
  omega

/-- The mask of a format has ones in the fields the format does not use, and zeros in the others. -/
theorem unusedZero_iff_mask {fmt : Format} {w : Command} :
    fmt.unusedZero w = true ↔ (w &&& fmt.mask).toNat % 2 ^ 40 = 0 := by
  have h4 (v : BitVec 4) : v &&& 0xF#4 = v := BitVec.and_allOnes
  have h8 (v : Byte) : v &&& 0xFF#8 = v := BitVec.and_allOnes
  have h16 (v : Word) : v &&& 0xFFFF#16 = v := BitVec.and_allOnes
  simp only [unusedZero_iff, toNat_mod_eq_zero_iff, aField, bField, wField, xHighField, xLowField,
    BitVec.extractLsb'_and]
  cases fmt <;> simp [Format.fields, Format.mask, h4, h8, h16]

/-! ### The `OP` values (R87, R89) -/

theorem toNat_opField (w : Command) : (opField w).toNat = w.toNat / 2 ^ 40 := by
  rw [opField, BitVec.extractLsb'_toNat, Nat.shiftRight_eq_div_pow]
  omega

/-- The rows of the op map lie at the `OP` values of R87, each with the format given there. -/
theorem formatOf_toNat : ∀ op : BitVec 8, formatOf op.toNat = (opRow? op).map OpRow.fmt := by decide

theorem ite_some_eq_none_iff {α : Type} {p : Prop} [Decidable p] {a : α} {e : Option α} :
    (if p then some a else e) = none ↔ ¬p ∧ e = none := by
  by_cases hp : p <;> simp [hp]

/-- The reserved values of R89 are those outside the ranges of R87. -/
theorem formatOf_eq_none_iff {o : Nat} (ho : o ≤ 0xFF) : formatOf o = none ↔
    o = 0x00 ∨ (0x08 ≤ o ∧ o ≤ 0x0F) ∨ (0x17 ≤ o ∧ o ≤ 0x1F) ∨ (0x27 ≤ o ∧ o ≤ 0x2F) ∨ (0x37 ≤ o ∧ o ≤ 0x3F) ∨
      (0x48 ≤ o ∧ o ≤ 0x4F) ∨ (0x52 ≤ o ∧ o ≤ 0x5F) ∨ (0x62 ≤ o ∧ o ≤ 0x6F) ∨ (0x74 ≤ o ∧ o ≤ 0x7F) ∨
      (0x87 ≤ o ∧ o ≤ 0xFF) := by
  simp only [formatOf, ite_some_eq_none_iff, and_true]
  omega

/-! ### The first failing check -/

theorem failureOf_decode (w : Command) : failureOf (decode w) = firstFailure w := by
  have hformat : formatOf (w.toNat / 2 ^ 40) = (opRow? (opField w)).map OpRow.fmt := by
    rw [← toNat_opField, formatOf_toNat]
  unfold decode firstFailure
  rw [hformat]
  cases hrow : opRow? (opField w) with
  | none => rfl
  | some row =>
    simp only [Option.map_some]
    by_cases hzero : row.fmt.unusedZero w = true
    · rw [if_pos hzero, if_neg (not_not.2 (unusedZero_iff_mask.1 hzero)),
        failureOf_make row (List.mem_of_find?_eq_some hrow), Format.idFailure]
      cases idError (aKind row.fmt) (aField w) <;> rfl
    · rw [if_neg hzero, if_pos (mt unusedZero_iff_mask.2 hzero), failureOf]

/-- No check but the first reports `BadOp`. -/
theorem firstFailure_eq_badOp_iff {w : Command} :
    firstFailure w = some .badOp ↔ formatOf (w.toNat / 2 ^ 40) = none := by
  unfold firstFailure
  cases formatOf (w.toNat / 2 ^ 40) with
  | none => simp
  | some fmt =>
    simp only [reduceCtorEq, iff_false]
    split
    · simp
    · split
      next c hc => exact hc ▸ idError_ne_badOp (aKind fmt) (aField w)
      next => exact idError_ne_badOp (bKind fmt) (bField w)

end Sys2Proof
end

section
/-! PROOFS. Every command, and every word at the block, ends in a next state that holds its response (R92, R254). -/

namespace Sys2Proof.Machine

open Sys2Proof Sys2Proof.Claims

variable {s t : State}

/-- The outcome is a next state whose last update is the response. -/
def Answers (o : Host.Outcome State Fault Refusal) : Prop := ∃ (u : State) (v : Response), o = .next (u.respond v)

theorem answers_respond (u : State) (v : Response) : Answers (.next (u.respond v)) := ⟨u, v, rfl⟩

theorem answers_raiseViolation (u : State) (c : Violation) : Answers (.next (u.raiseViolation c)) := ⟨_, _, rfl⟩

/-- A command of the coordinator answers when it does so at every offset; outside the window it raises (R223). -/
theorem inWindowDo_answers (s : State) (a : Word) {cmd : Offset → State} (hcmd : ∀ o, Answers (.next (cmd o))) :
    Answers (s.inWindowDo a cmd) := by
  unfold State.inWindowDo
  cases windowOffset? a with
  | none => exact answers_raiseViolation s .ioAddrRange
  | some o => exact hcmd o

theorem execIosync_answers (n : Cycles) (s : State) : Answers (execIosync n s) := by
  unfold execIosync
  split
  · exact answers_respond _ .ok
  · exact answers_raiseViolation s .accOverflow

theorem exec_answers (i : Instr) (s : State) : Answers (exec i s) := by
  cases i with
  | iosync cyc => exact execIosync_answers cyc s
  | iord a16 => exact inWindowDo_answers s a16 fun _ => answers_respond _ _
  | iowr a16 imm | iodw a16 imm => exact inWindowDo_answers s a16 fun _ => answers_respond _ .ok
  | _ => exact answers_respond _ _

/-- A word is answered with the latched code, with the code of its rejection, or by its command. -/
theorem issue_answers (w : Command) (s : State) : Answers (issue w s) := by
  unfold issue
  split
  next c _ => exact answers_respond s (.fault c)
  next =>
    split
    next c _ => exact answers_raiseViolation s c
    next i _ => exact exec_answers i s

theorem Update.inbox_eq {i : Instr} (h : Update i s t) : t.inbox = s.inbox := by
  cases h <;> simp

/-- The inputs that wait are left alone by the word that runs (R8). -/
theorem issue_inbox {w : Command} (hissue : issue w s = .next t) : t.inbox = s.inbox := by
  obtain ⟨c, rfl⟩ | ⟨c, rfl⟩ | ⟨i, hexec⟩ := issue_cases hissue
  · exact refuseStopped_inbox s c
  · exact raiseViolation_inbox s c
  · exact exec_keeps_field (·.inbox) (fun _ _ => Update.inbox_eq) hexec

end Sys2Proof.Machine
end

section
/-! PROOFS. The statements of 30_encoding.md. -/

namespace Sys2Proof.Claims

open Sys2Proof Sys2Proof.Machine

/-- With nothing issued a step is idle (R265). -/
theorem step_of_inbox_nil {s : State} (hinbox : s.inbox = []) : step s = .next s := by
  simp only [step, runInput, State.takeInput, hinbox]

/-- A step with `rst` next takes it from the inbox and resets the block (R280). -/
theorem step_of_inbox_rst {s : State} {rest : List HostInput} (hinbox : s.inbox = .rst :: rest) :
    step s = .next ({ s with inbox := rest }.assertRst Config.env) := by
  simp only [step, runInput, State.takeInput, hinbox]

/-- Settles O8: the word of each command is one that its row accepts and reads back. -/
theorem decodeOfEncodeIsTheCommand : Obligations.DecodeOfEncodeIsTheCommand := decode_encode

/-- Settles O7: a step is idle, resets the block, or issues a word, and every word is answered. -/
theorem everyStepCompletesAndEveryWordIsAnswered : Obligations.EveryStepCompletesAndEveryWordIsAnswered := by
  refine ⟨fun s => ?_, fun s t w rest hinbox hstep => ?_, fun s => step_of_inbox_nil⟩
  · match hinbox : s.inbox with
    | [] => exact ⟨s, step_of_inbox_nil hinbox⟩
    | .rst :: rest => exact ⟨_, step_of_inbox_rst hinbox⟩
    | .cmd w :: rest =>
      obtain ⟨u, v, hissue⟩ := issue_answers w { s with inbox := rest }
      exact ⟨u.respond v, (step_of_inbox_cmd hinbox).trans hissue⟩
  · have hissue : issue w { s with inbox := rest } = .next t := (step_of_inbox_cmd hinbox).symm.trans hstep
    obtain ⟨u, v, hanswer⟩ := issue_answers w { s with inbox := rest }
    cases hissue.symm.trans hanswer
    exact ⟨Option.some_ne_none v, issue_inbox hissue⟩

/-- Settles O9: the word lies in a row of the map, where it packs the operands of the command read from it. -/
theorem encodeOfDecodeIsTheWord : Obligations.EncodeOfDecodeIsTheWord := by
  intro w i hdec
  obtain ⟨row, hrow, haccepts⟩ := accepts_of_decode hdec
  exact encode_of_accepts row hrow w i haccepts

/-- Settles O10: `BadOp` is the code of the first check alone, which fails at the values outside the op map. -/
theorem reservedOpsAndOnlyTheyAreBadOp : Obligations.ReservedOpsAndOnlyTheyAreBadOp := by
  intro w
  have hop : w.toNat / 2 ^ 40 ≤ 0xFF := by omega
  calc decode w = .error .badOp ↔ firstFailure w = some .badOp := by
        rw [← failureOf_eq_some_iff, failureOf_decode]
    _ ↔ formatOf (w.toNat / 2 ^ 40) = none := firstFailure_eq_badOp_iff
    _ ↔ _ := formatOf_eq_none_iff hop

/-- Settles O11: what the decoder reports is the first failing check. -/
theorem decodeReportsTheFirstFailingCheck : Obligations.DecodeReportsTheFirstFailingCheck := by
  intro w
  rw [← failureOf_decode]
  exact ⟨fun _ => failureOf_eq_some_iff.symm, failureOf_eq_none_iff.symm⟩

/-- Settles O12: each word of the table is the word of the command beside it. -/
theorem workedEncodingsDecode : Obligations.WorkedEncodingsDecode :=
  ⟨decode_encode (.add 0xFF), decode_encode (.addr .b), decode_encode (.addm .hl), decode_encode (.mov .a .b),
    decode_encode (.stp .hl .a), decode_encode (.lda .e 0xC000), decode_encode (.ld16 .hl 0x1234),
    decode_encode (.wr16 .sp 0xFFFE), decode_encode (.push .bc), decode_encode (.mwr16 0xC000 0xBEEF),
    decode_encode (.iosync 4), decode_encode (.iowr 0xFF04 0x00)⟩

end Sys2Proof.Claims
end

section
/-! PROOFS. The frame of a write to the register file, once for each of its operations (10_state.md R20 to R24, R31), and the
flags as bits of F (R30, R32). -/

namespace Sys2Proof.Machine

open Sys2Proof.Claims

/-! ### What a register write leaves unchanged -/

/-- A command that ends by answering `OK` has the frame of the register write before the answer. -/
theorem registerOnly_respond {regs : List Reg8} {s u : State} (hregs : OnlyRegs regs s u) (hout : SameOutside s u) :
    RegisterOnly regs s (u.respond .ok) :=
  ⟨hregs, .of_outside _ (hout.trans (.respond u .ok)), rfl⟩

variable (s : State)

theorem onlyRegs_writeReg8 (r : Reg8) (v : Byte) : OnlyRegs [r] s (s.writeReg8 r v) := by
  intro q hq
  rw [readReg8_writeReg8, if_neg (List.ne_of_not_mem_cons hq)]

theorem samePcSp_writeReg8 (r : Reg8) (v : Byte) : SamePcSp s (s.writeReg8 r v) :=
  ⟨writeReg8_pc s r v, writeReg8_sp s r v⟩

/-- A pair is two register writes, one for each half; `pc` and `sp` lie outside the 8-bit registers (R22). -/
theorem onlyRegs_writeReg16 (q : Reg16) (v : Word) : OnlyRegs (halves q) s (s.writeReg16 q v) := by
  intro r hr
  cases q with
  | bc | de | hl =>
    simp only [halves, List.mem_cons, List.not_mem_nil, or_false, not_or] at hr
    obtain ⟨hhigh, hlow⟩ := hr
    simp [State.writeReg16, hhigh, hlow]
  | pc => exact readReg8_writePc s v r
  | sp => exact readReg8_writeSp s v r

theorem samePcSp_writePair (p : Pair) (v : Word) : SamePcSp s (s.writePair p v) := by
  cases p <;> exact ⟨rfl, rfl⟩

/-! ### The flags in F -/

/-- The flags lie in the high nibble (R30), which the mask of a write or a read of F keeps (R32). -/
theorem high_nibble_getLsbD_flagBit (v : Byte) (f : FlagId) :
    (v &&& 0xF0#8).getLsbD (flagBit f) = v.getLsbD (flagBit f) := by
  rw [BitVec.getLsbD_and]
  cases f <;> exact Bool.and_true _

theorem readFlag_writeReg8_f (v : Byte) (f : FlagId) : (s.writeReg8 .f v).readFlag f = v.getLsbD (flagBit f) := by
  rw [State.readFlag, readReg8_writeReg8, if_pos rfl, if_pos rfl, high_nibble_getLsbD_flagBit]

/-- A byte with a zero low nibble is the sum of its four flags, each by the weight of its bit (R30). -/
theorem toNat_high_nibble (v : Byte) : (v &&& 0xF0#8).toNat = 128 * (v.getLsbD (flagBit .z)).toNat +
    64 * (v.getLsbD (flagBit .n)).toNat + 32 * (v.getLsbD (flagBit .h)).toNat + 16 * (v.getLsbD (flagBit .c)).toNat := by
  revert v
  decide

theorem toNat_readReg8_f : (s.readReg8 .f).toNat = 128 * (s.readFlag .z).toNat + 64 * (s.readFlag .n).toNat +
    32 * (s.readFlag .h).toNat + 16 * (s.readFlag .c).toNat := by
  have hflag (f : FlagId) : s.readFlag f = s.regs.f.getLsbD (flagBit f) := high_nibble_getLsbD_flagBit s.regs.f f
  simp only [hflag]
  exact toNat_high_nibble s.regs.f

end Sys2Proof.Machine
end

section
/-! PROOFS. The statements of 40_regfile.md. -/

namespace Sys2Proof.Claims

open Sys2Proof Sys2Proof.Machine

/-- Settles O14: the write reads back, F through its high nibble, and its frame is that of `writeReg8`. -/
theorem wr8WritesTheRegisterNamed : Obligations.Wr8WritesTheRegisterNamed := by
  intro s r v
  have hread : (s.writeReg8 r v).readReg8 r = if r = .f then v &&& 0xF0#8 else v := by
    rw [readReg8_writeReg8, if_pos rfl]
  have hflags : r = .f → FlagsAre (s.writeReg8 r v) (v.getLsbD 7) (v.getLsbD 6) (v.getLsbD 5) (v.getLsbD 4) := by
    rintro rfl
    exact ⟨readFlag_writeReg8_f s v .z, readFlag_writeReg8_f s v .n, readFlag_writeReg8_f s v .h,
      readFlag_writeReg8_f s v .c⟩
  exact ⟨(s.writeReg8 r v).respond .ok, rfl, hread, hflags, samePcSp_writeReg8 s r v,
    registerOnly_respond (onlyRegs_writeReg8 s r v) (.writeReg8 s r v)⟩

/-- Settles O15: both commands are a `writeReg16`, LD16 that of its pair. -/
theorem wr16AndLd16WriteTheRegisterNamed : Obligations.Wr16AndLd16WriteTheRegisterNamed := by
  have hread (s : State) (q q' : Reg16) (v : Word) :
      ((s.writeReg16 q v).respond .ok).readReg16 q' = if q' = q then v else s.readReg16 q' := by
    rw [readReg16_respond, readReg16_writeReg16]
  have hframe (s : State) (q : Reg16) (v : Word) : RegisterOnly (halves q) s ((s.writeReg16 q v).respond .ok) :=
    registerOnly_respond (onlyRegs_writeReg16 s q v) (.writeReg16 s q v)
  constructor
  · intro s q v
    exact ⟨_, rfl, (hread s q q v).trans (if_pos rfl), fun q' hne => (hread s q q' v).trans (if_neg hne), hframe s q v⟩
  · intro s p v
    exact ⟨_, rfl, rfl, (hread s (pairReg p) (pairReg p) v).trans (if_pos rfl), samePcSp_writePair s p v,
      hframe s (pairReg p) v⟩

/-- Settles O17: both commands are a `writeFlag`, which rewrites F alone. -/
theorem setfAndClrfChangeTheFlagNamed : Obligations.SetfAndClrfChangeTheFlagNamed := by
  have hwrite (s : State) (f : FlagId) (b : Bool) : ∃ t, (s.writeFlag f b).done = .next t ∧ t.readFlag f = b ∧
      (∀ g, g ≠ f → t.readFlag g = s.readFlag g) ∧ SamePcSp s t ∧ RegisterOnly [.f] s t :=
    ⟨_, rfl, (readFlag_writeFlag s f f b).trans (if_pos rfl),
      fun g hne => (readFlag_writeFlag s f g b).trans (if_neg hne), samePcSp_writeReg8 s .f _,
      registerOnly_respond (onlyRegs_writeReg8 s .f _) (.writeReg8 s .f _)⟩
  exact ⟨fun s f => hwrite s f true, fun s f => hwrite s f false⟩

/-- Settles O13: each command is the response alone, and F read through its mask is its four flags. -/
theorem readCommandsAnswerAndChangeNothing : Obligations.ReadCommandsAnswerAndChangeNothing :=
  ⟨fun _ _ => rfl, fun _ _ => rfl, fun _ _ => rfl, toNat_readReg8_f⟩

end Sys2Proof.Claims
end

section
/-! PROOFS. The results of the core functions on numbers (41_alu.md R131 to R138): the masks of R131 and R132 as remainders
and borrows, and what FOLD loses by folding the carry into the operand. -/

namespace Sys2Proof.Machine

open Sys2Proof

/-! ### Masks as remainders and borrows (R11) -/

theorem and_low_nibble (n : Nat) : n &&& 0xF = n % 16 := Nat.and_two_pow_sub_one_eq_mod n 4

theorem and_low_byte (n : Nat) : n &&& 0xFF = n % 256 := Nat.and_two_pow_sub_one_eq_mod n 8

/-- The low byte of a difference that may be negative is the remainder of the difference lifted by a multiple of 256. -/
theorem maskInt_low_byte {x n : Nat} (hn : n ≤ 512) : maskInt ((x : Int) - n) 0xFF = (x + 512 - n) % 256 := by
  rw [maskInt, and_low_byte]
  omega

theorem maskInt_two_pow_ne_zero (d : Int) (i : Nat) :
    (maskInt d (2 ^ i) != 0) = decide ((d % 65536).toNat / 2 ^ i % 2 = 1) := by
  rw [maskInt, Nat.and_two_pow, Nat.testBit_eq_decide_div_mod_eq]
  cases decide ((d % 65536).toNat / 2 ^ i % 2 = 1) <;> simp

/-- Bit 4 of a difference of nibbles is its borrow. -/
theorem maskInt_nibble_borrow {x y : Nat} (hx : x < 16) (hy : y < 16) :
    (maskInt ((x : Int) - y) 0x10 != 0) = decide (x < y) := by
  rw [show 0x10 = 2 ^ 4 from rfl, maskInt_two_pow_ne_zero, decide_eq_decide]
  omega

/-- Bit 8 of a difference of bytes is its borrow. -/
theorem maskInt_byte_borrow {x y : Nat} (hx : x < 256) (hy : y < 256) :
    (maskInt ((x : Int) - y) 0x100 != 0) = decide (x < y) := by
  rw [show 0x100 = 2 ^ 8 from rfl, maskInt_two_pow_ne_zero, decide_eq_decide]
  omega

/-! ### The results on numbers -/

variable (a v : Byte)

/-- R131, for every integer operand. -/
theorem addResult_eq (n : Nat) : addResult a n =
    { value := BitVec.ofNat 8 ((a.toNat + n) % 256), z := decide ((a.toNat + n) % 256 = 0), n := false
      h := decide (a.toNat % 16 + n % 16 > 15), c := decide (a.toNat + n % 256 > 255) } := by
  simp only [addResult, and_low_nibble, and_low_byte, Nat.mod_eq_of_lt a.isLt]
  rfl

/-- R132, for the operands that `sub` and `sbc` pass. -/
theorem subResult_eq {n : Nat} (hn : n ≤ 256) : subResult a n =
    { value := BitVec.ofNat 8 ((a.toNat + 512 - n) % 256), z := decide ((a.toNat + 512 - n) % 256 = 0), n := true
      h := decide (a.toNat % 16 < n % 16), c := decide (a.toNat < n % 256) } := by
  have hvalue : maskInt ((a.toNat : Int) - n) 0xFF = (a.toNat + 512 - n) % 256 := maskInt_low_byte (by omega)
  have hnibble : (maskInt (((a.toNat % 16 : Nat) : Int) - (n % 16 : Nat)) 0x10 != 0) = decide (a.toNat % 16 < n % 16) :=
    maskInt_nibble_borrow (Nat.mod_lt _ (by decide)) (Nat.mod_lt _ (by decide))
  have hbyte : (maskInt ((a.toNat : Int) - (n % 256 : Nat)) 0x100 != 0) = decide (a.toNat < n % 256) :=
    maskInt_byte_borrow a.isLt (Nat.mod_lt _ (by decide))
  simp only [subResult, and_low_nibble, and_low_byte, Nat.mod_eq_of_lt a.isLt, hvalue, hnibble, hbyte]
  rfl

/-- R134: the carry is folded into the operand. -/
theorem adcResult_fold_eq (k : Nat) : adcResult .fold a v.toNat k =
    { value := BitVec.ofNat 8 ((a.toNat + v.toNat + k) % 256), z := decide ((a.toNat + v.toNat + k) % 256 = 0), n := false
      h := decide (a.toNat % 16 + (v.toNat + k) % 16 > 15), c := decide (a.toNat + (v.toNat + k) % 256 > 255) } := by
  rw [adcResult, addResult_eq, Nat.add_assoc]

/-- R135. -/
theorem adcResult_true3_eq (k : Nat) : adcResult .true3 a v.toNat k =
    { value := BitVec.ofNat 8 ((a.toNat + v.toNat + k) % 256), z := decide ((a.toNat + v.toNat + k) % 256 = 0), n := false
      h := decide (a.toNat % 16 + v.toNat % 16 + k > 15), c := decide (a.toNat + v.toNat + k > 255) } := by
  simp only [adcResult, adcTrue3Result, and_low_nibble, and_low_byte]
  rfl

variable {k : Nat} (hk : k ≤ 1)
include hk

/-- R136: the carry is folded into the operand. -/
theorem sbcResult_fold_eq : sbcResult .fold a v.toNat k =
    { value := BitVec.ofNat 8 ((a.toNat + 512 - v.toNat - k) % 256)
      z := decide ((a.toNat + 512 - v.toNat - k) % 256 = 0), n := true
      h := decide (a.toNat % 16 < (v.toNat + k) % 16), c := decide (a.toNat < (v.toNat + k) % 256) } := by
  rw [sbcResult, subResult_eq a (by omega), Nat.sub_sub]

/-- R137. -/
theorem sbcResult_true3_eq : sbcResult .true3 a v.toNat k =
    { value := BitVec.ofNat 8 ((a.toNat + 512 - v.toNat - k) % 256)
      z := decide ((a.toNat + 512 - v.toNat - k) % 256 = 0), n := true
      h := decide (a.toNat % 16 < v.toNat % 16 + k), c := decide (a.toNat < v.toNat + k) } := by
  have hvalue : maskInt ((a.toNat : Int) - v.toNat - k) 0xFF = (a.toNat + 512 - v.toNat - k) % 256 := by
    rw [Int.sub_sub, ← Int.natCast_add, maskInt_low_byte (by omega), Nat.sub_sub]
  have hborrow (x y : Nat) : (x : Int) - y - k < 0 ↔ x < y + k := by omega
  simp only [sbcResult, sbcTrue3Result, and_low_nibble, hvalue, hborrow]
  rfl

omit hk

/-! ### Where folding the carry loses it (R138) -/

/-- For an operand part `x` whose last value is `m`, and a test that fails at 0 and passes at `m + 1`: taken of the folded
part, which wraps after `m`, and of the part plus the carry, the test differs exactly when the fold wraps. -/
theorem folded_test_differs_iff_wraps (test : Nat → Bool) {m x : Nat} (hx : x ≤ m) (hzero : test 0 = false)
    (hwrap : test (m + 1) = true) (k : Bool) :
    if k = true ∧ x = m then test ((x + k.toNat) % (m + 1)) = false ∧ test (x + k.toNat) = true
    else test ((x + k.toNat) % (m + 1)) = test (x + k.toNat) := by
  split
  next hboundary =>
    obtain ⟨rfl, rfl⟩ := hboundary
    simp [hzero, hwrap]
  next hinside =>
    have hlt : x + k.toNat < m + 1 := by
      cases k with
      | false => exact Nat.lt_succ_of_le hx
      | true => exact Nat.succ_lt_succ (lt_of_le_of_ne hx fun hxm => hinside ⟨rfl, hxm⟩)
    rw [Nat.mod_eq_of_lt hlt]

end Sys2Proof.Machine
end

section
/-! PROOFS. The three operand forms of a core function, once for all seven (41_alu.md R130, R139, R166). -/

namespace Sys2Proof.Machine

open Sys2Proof Sys2Proof.Claims

variable {core : State → Byte → State} {result : State → Byte → AluResult} {s u t : State}

/-- A core function writes an ALU result that it computes from the register file and the parameters alone: the state `s` from
which the result is taken may be the one before the operand was read from memory (R130). -/
def ComputesFromRegs (core : State → Byte → State) (result : State → Byte → AluResult) : Prop :=
  ∀ s u v, u.regs = s.regs → u.cfg = s.cfg → core u v = u.writeAlu (result s v)

/-- A and the flags hold an ALU result. -/
def HoldsResult (r : AluResult) (t : State) : Prop := t.readReg8 .a = r.value ∧ FlagsAre t r.z r.n r.h r.c

theorem holdsResult_writeAlu (r : AluResult) : HoldsResult r ((u.writeAlu r).respond .ok) :=
  ⟨readReg8_writeAlu_a u r, readFlag_writeAlu u r .z, readFlag_writeAlu u r .n, readFlag_writeAlu u r .h,
    readFlag_writeAlu u r .c⟩

theorem samePcSp_writeAlu (r : AluResult) (hregs : u.regs = s.regs) : SamePcSp s (u.writeAlu r) := by
  rw [SamePcSp, writeAlu_pc, writeAlu_sp, hregs]
  exact ⟨rfl, rfl⟩

theorem onlyRegs_writeAlu (r : AluResult) (hregs : u.regs = s.regs) : OnlyRegs [.a, .f] s (u.writeAlu r) := by
  intro q hq
  simp only [List.mem_cons, List.not_mem_nil, or_false, not_or] at hq
  obtain ⟨ha, hf⟩ := hq
  rw [readReg8_writeAlu_other u r ha hf, readReg8_of_regs hregs]

/-- The three forms of a core function leave its result in A and the flags, and have the frame of the operand's source. -/
theorem aluForms_of_computesFromRegs {value : Byte → Instr} {register : Reg8 → Instr} {indirect : Pair → Instr}
    {Result : State → Byte → State → Prop} (hcore : ComputesFromRegs core result)
    (hresult : ∀ s v t, HoldsResult (result s v) t → Result s v t)
    (hvalue : ∀ v s, exec (value v) s = aluValue core v s)
    (hregister : ∀ r s, exec (register r) s = aluRegister core r s)
    (hindirect : ∀ p s, exec (indirect p) s = aluIndirect core p s) : AluForms value register indirect Result := by
  have hregisters (s : State) (v : Byte) : ∃ t, (core s v).done = .next t ∧ Result s v t ∧ SamePcSp s t ∧
      RegisterOnly [.a, .f] s t := by
    rw [hcore s s v rfl rfl]
    exact ⟨_, rfl, hresult s v _ (holdsResult_writeAlu _), samePcSp_writeAlu _ rfl,
      registerOnly_respond (onlyRegs_writeAlu _ rfl) (.writeAlu s _)⟩
  refine ⟨fun s v => ?_, fun s r => ?_, fun s p => ?_⟩
  · rw [hvalue]
    exact hregisters s v
  · rw [hregister]
    exact hregisters s (s.readReg8 r)
  · have hregs : (s.memRead8 Config.env (s.readPair p)).2.regs = s.regs := memRead8_regs ..
    rw [hindirect, aluIndirect, hcore s _ _ hregs (memRead8_cfg ..)]
    exact ⟨_, rfl, hresult s _ _ (holdsResult_writeAlu _), samePcSp_writeAlu _ hregs, onlyRegs_writeAlu _ hregs,
      (AccessFrame.read8 Config.env s (s.readPair p)).outside _ ((SameOutside.writeAlu _ _).trans (.respond _ _)), rfl⟩

/-! ### The result of each core function -/

theorem carryIn_of_regs (hregs : u.regs = s.regs) : u.carryIn = s.carryIn := by
  rw [State.carryIn, readFlag_of_regs hregs, State.carryIn]

theorem carryIn_le_one (s : State) : s.carryIn ≤ 1 := Bool.toNat_le _

theorem coreAdd_computes : ComputesFromRegs State.coreAdd fun s v => addResult (s.readReg8 .a) v.toNat := by
  intro s u v hregs _
  rw [State.coreAdd, readReg8_of_regs hregs]

theorem coreSub_computes : ComputesFromRegs State.coreSub fun s v => subResult (s.readReg8 .a) v.toNat := by
  intro s u v hregs _
  rw [State.coreSub, readReg8_of_regs hregs]

theorem coreAdc_computes : ComputesFromRegs State.coreAdc fun s v =>
    adcResult s.cfg.carryMode (s.readReg8 .a) v.toNat s.carryIn := by
  intro s u v hregs hcfg
  rw [State.coreAdc, readReg8_of_regs hregs, carryIn_of_regs hregs, hcfg]

theorem coreSbc_computes : ComputesFromRegs State.coreSbc fun s v =>
    sbcResult s.cfg.carryMode (s.readReg8 .a) v.toNat s.carryIn := by
  intro s u v hregs hcfg
  rw [State.coreSbc, readReg8_of_regs hregs, carryIn_of_regs hregs, hcfg]

theorem coreAnd_computes : ComputesFromRegs State.coreAnd fun s v => logicResult (s.readReg8 .a &&& v) true := by
  intro s u v hregs _
  rw [State.coreAnd, readReg8_of_regs hregs]

theorem coreOr_computes : ComputesFromRegs State.coreOr fun s v => logicResult (s.readReg8 .a ||| v) false := by
  intro s u v hregs _
  rw [State.coreOr, readReg8_of_regs hregs]

theorem coreXor_computes : ComputesFromRegs State.coreXor fun s v => logicResult (s.readReg8 .a ^^^ v) false := by
  intro s u v hregs _
  rw [State.coreXor, readReg8_of_regs hregs]

/-! ### The results as the words of the statements -/

theorem addResult_of_holds (s : State) (v : Byte) (t : State)
    (h : HoldsResult (addResult (s.readReg8 .a) v.toNat) t) : AddResult s v t := by
  rw [addResult_eq, Nat.mod_eq_of_lt v.isLt] at h
  exact h

theorem subResult_of_holds (s : State) (v : Byte) (t : State)
    (h : HoldsResult (subResult (s.readReg8 .a) v.toNat) t) : SubResult s v t := by
  have hvalue : ((s.readReg8 .a).toNat + 512 - v.toNat) % 256 = ((s.readReg8 .a).toNat + 256 - v.toNat) % 256 := by omega
  have hzero : ((s.readReg8 .a).toNat + 256 - v.toNat) % 256 = 0 ↔ (s.readReg8 .a).toNat = v.toNat := by omega
  rw [subResult_eq _ (by omega), Nat.mod_eq_of_lt v.isLt, hvalue, decide_eq_decide.2 hzero] at h
  exact h

theorem logicResult_of_holds (op : Byte → Byte → Byte) (b : Bool) (s : State) (v : Byte) (t : State)
    (h : HoldsResult (logicResult (op (s.readReg8 .a) v) b) t) : LogicResult op b s v t := h

theorem adcResult_of_holds (s : State) (v : Byte) (t : State)
    (h : HoldsResult (adcResult s.cfg.carryMode (s.readReg8 .a) v.toNat s.carryIn) t) : AdcResult s v t := by
  unfold AdcResult
  cases hmode : s.cfg.carryMode with
  | fold =>
    rw [hmode, adcResult_fold_eq] at h
    exact h
  | true3 =>
    rw [hmode, adcResult_true3_eq] at h
    exact h

theorem sbcResult_of_holds (s : State) (v : Byte) (t : State)
    (h : HoldsResult (sbcResult s.cfg.carryMode (s.readReg8 .a) v.toNat s.carryIn) t) : SbcResult s v t := by
  unfold SbcResult
  cases hmode : s.cfg.carryMode with
  | fold =>
    rw [hmode, sbcResult_fold_eq _ _ (carryIn_le_one s)] at h
    exact h
  | true3 =>
    rw [hmode, sbcResult_true3_eq _ _ (carryIn_le_one s)] at h
    exact h

end Sys2Proof.Machine
end

section
/-! PROOFS. The statements of 41_alu.md. -/

namespace Sys2Proof.Claims

open Sys2Proof Sys2Proof.Machine

/-- Settles O18: the forms of `add`, with its masks as remainders. -/
theorem addFormsGiveSumAndFlags : Obligations.AddFormsGiveSumAndFlags :=
  aluForms_of_computesFromRegs coreAdd_computes addResult_of_holds (fun _ _ => rfl) (fun _ _ => rfl) (fun _ _ => rfl)

/-- Settles O19: the forms of `sub`, with its masks as borrows. -/
theorem subFormsGiveDifferenceAndFlags : Obligations.SubFormsGiveDifferenceAndFlags :=
  aluForms_of_computesFromRegs coreSub_computes subResult_of_holds (fun _ _ => rfl) (fun _ _ => rfl) (fun _ _ => rfl)

/-- Settles O20: the forms of the three bitwise functions. -/
theorem logicFormsGiveResultAndFlags : Obligations.LogicFormsGiveResultAndFlags :=
  ⟨aluForms_of_computesFromRegs coreAnd_computes (logicResult_of_holds (· &&& ·) true)
      (fun _ _ => rfl) (fun _ _ => rfl) (fun _ _ => rfl),
    aluForms_of_computesFromRegs coreOr_computes (logicResult_of_holds (· ||| ·) false)
      (fun _ _ => rfl) (fun _ _ => rfl) (fun _ _ => rfl),
    aluForms_of_computesFromRegs coreXor_computes (logicResult_of_holds (· ^^^ ·) false)
      (fun _ _ => rfl) (fun _ _ => rfl) (fun _ _ => rfl)⟩

/-- Settles O21: the forms of `adc`, in each carry mode. -/
theorem adcFormsGiveSumAndFlagsInBothModes : Obligations.AdcFormsGiveSumAndFlagsInBothModes :=
  aluForms_of_computesFromRegs coreAdc_computes adcResult_of_holds (fun _ _ => rfl) (fun _ _ => rfl) (fun _ _ => rfl)

/-- Settles O22: the forms of `sbc`, in each carry mode. -/
theorem sbcFormsGiveDifferenceAndFlagsInBothModes : Obligations.SbcFormsGiveDifferenceAndFlagsInBothModes :=
  aluForms_of_computesFromRegs coreSbc_computes sbcResult_of_holds (fun _ _ => rfl) (fun _ _ => rfl) (fun _ _ => rfl)

/-- Settles O23: H tests the operand's low nibble and C the whole operand, and in FOLD each of these wraps to 0 at its
boundary. -/
theorem carryModesDifferExactlyAtTheBoundaries : Obligations.CarryModesDifferExactlyAtTheBoundaries := by
  intro result hresult a v k
  have hnibble : v.toNat % 16 ≤ 15 := by omega
  have hbyte : v.toNat ≤ 255 := by omega
  rcases hresult with rfl | rfl
  · rw [adcResult_fold_eq, adcResult_true3_eq, ← Nat.mod_add_mod v.toNat, Nat.add_assoc _ (v.toNat % 16),
      Nat.add_assoc a.toNat]
    refine ⟨rfl, rfl, rfl, ?_, ?_⟩
    · exact folded_test_differs_iff_wraps (fun x => decide (a.toNat % 16 + x > 15)) hnibble
        (decide_eq_false (by omega)) (decide_eq_true (by omega)) k
    · exact folded_test_differs_iff_wraps (fun x => decide (a.toNat + x > 255)) hbyte
        (decide_eq_false (by omega)) (decide_eq_true (by omega)) k
  · rw [sbcResult_fold_eq _ _ (Bool.toNat_le k), sbcResult_true3_eq _ _ (Bool.toNat_le k), ← Nat.mod_add_mod v.toNat]
    refine ⟨rfl, rfl, rfl, ?_, ?_⟩
    · exact folded_test_differs_iff_wraps (fun x => decide (a.toNat % 16 < x)) hnibble
        (decide_eq_false (by omega)) (decide_eq_true (by omega)) k
    · exact folded_test_differs_iff_wraps (fun x => decide (a.toNat < x)) hbyte
        (decide_eq_false (by omega)) (decide_eq_true (by omega)) k

end Sys2Proof.Claims
end

section
/-! PROOFS. The load of a register from a byte and the store of it to one, in the state that earlier accesses of the same
command lead to, and the immediate address at `pc + 1` (42_load_store.md R170 to R178). -/

namespace Sys2Proof.Machine

open Sys2Proof Sys2Proof.Claims

variable {E : Env} {reads : List Word} {s u : State}

/-! ### The register file over accesses that leave it alone -/

theorem samePcSp_of_regs (hregs : u.regs = s.regs) : SamePcSp s u := by
  rw [SamePcSp, hregs]
  exact ⟨rfl, rfl⟩

theorem onlyRegs_of_regs (hregs : u.regs = s.regs) : OnlyRegs [] s u := fun q _ => readReg8_of_regs hregs q

/-- No access before the command's first. -/
theorem AccessFrame.refl (E : Env) (s : State) : AccessFrame E [] [] s s s where
  control := ⟨rfl, rfl, rfl, rfl⟩
  mem := rfl
  memState := rfl
  win := rfl
  pstates := rfl
  extSeq := rfl
  external _ _ _ _ := rfl
  inWindow _ := ⟨rfl, rfl⟩
  quiet _ := ⟨rfl, rfl, rfl, fun _ _ => rfl⟩

/-! ### The load of a register (R171, R173, R175) -/

theorem readReg8_loadReg8 (u : State) (r : Reg8) (a : Word) : (u.loadReg8 E r a).readReg8 r =
    if r = .f then (u.memRead8 E a).1 &&& 0xF0#8 else (u.memRead8 E a).1 := by
  rw [State.loadReg8, readReg8_writeReg8, if_pos rfl]

theorem samePcSp_loadReg8 (hregs : u.regs = s.regs) (r : Reg8) (a : Word) : SamePcSp s (u.loadReg8 E r a) := by
  rw [SamePcSp, State.loadReg8, writeReg8_pc, writeReg8_sp, memRead8_regs, hregs]
  exact ⟨rfl, rfl⟩

theorem onlyRegs_loadReg8 (hregs : u.regs = s.regs) (r : Reg8) (a : Word) : OnlyRegs [r] s (u.loadReg8 E r a) := by
  intro q hq
  rw [State.loadReg8, onlyRegs_writeReg8 _ r _ q hq, readReg8_of_regs ((memRead8_regs E u a).trans hregs)]

/-- A command that ends with a load completes, with the byte read in the register, which is the one that stands there when
it is plain, and the frame of its accesses. -/
theorem loadReg8_completes (hregs : u.regs = s.regs) (hframe : AccessFrame E reads [] u s u) (r : Reg8) (a : Word) :
    ∃ t, (u.loadReg8 E r a).done = .next t ∧
      t.readReg8 r = (if r = .f then (u.memRead8 E a).1 &&& 0xF0#8 else (u.memRead8 E a).1) ∧
      SamePcSp s t ∧ OnlyRegs [r] s t ∧ AccessFrame E (reads ++ [a]) [] (u.memRead8 E a).2 s t ∧
      t.resp = some .ok ∧ (u.plainAt a = true → (u.memRead8 E a).1 = u.peek E a) :=
  ⟨_, rfl, readReg8_loadReg8 u r a, samePcSp_loadReg8 hregs r a, onlyRegs_loadReg8 hregs r a,
    (hframe.comp E (.read8 E u a)).outside E ((SameOutside.writeReg8 _ r _).trans (.respond _ .ok)), rfl,
    fun ha => by rw [memRead8_plain E ha]⟩

/-! ### The store of a register (R172, R174, R176) -/

/-- The byte stored is the register's before the command, whatever its accesses did before the store. -/
theorem storeReg8_of_regs (hregs : u.regs = s.regs) (a : Word) (r : Reg8) :
    u.storeReg8 E a r = u.memWrite8 E a (s.readReg8 r) := by
  rw [State.storeReg8, readReg8_of_regs hregs]

/-- A store to a plain byte puts the value there (R64). -/
theorem peek_memWrite8_plain {a : Word} (v : Byte) (ha : u.plainAt a = true) : (u.memWrite8 E a v).peek E a = v := by
  obtain ⟨-, -, -, hpeek⟩ := memWrite8_plain E v ha
  rw [hpeek, if_pos rfl]

/-- A command that ends with a store completes, with the register in the byte when it is plain, no register changed, and
the frame of its accesses. -/
theorem storeReg8_completes (hregs : u.regs = s.regs) (hframe : AccessFrame E reads [] u s u) (a : Word) (r : Reg8) :
    ∃ t, (u.storeReg8 E a r).done = .next t ∧
      (s.plainAt a = true → t.peek E a = s.readReg8 r) ∧ SamePcSp s t ∧ OnlyRegs [] s t ∧
      AccessFrame E reads [a] (u.memWrite8 E a (s.readReg8 r)) s t ∧ t.resp = some .ok := by
  rw [storeReg8_of_regs hregs]
  generalize s.readReg8 r = v
  have hregs' : ((u.memWrite8 E a v).respond .ok).regs = s.regs := (memWrite8_regs E u a v).trans hregs
  have hstored : AccessFrame E reads [a] (u.memWrite8 E a v) s (u.memWrite8 E a v) := by
    simpa using hframe.comp E (.write8 E u a v)
  have hout : SameOutside (u.memWrite8 E a v) ((u.memWrite8 E a v).respond .ok) := .respond _ .ok
  refine ⟨_, rfl, fun ha => ?_, samePcSp_of_regs hregs', onlyRegs_of_regs hregs', hstored.outside E hout, rfl⟩
  rw [hout.peek, peek_memWrite8_plain v ((plainAt_of_cfg hframe.control.cfg a).trans ha)]

/-! ### The immediate address of LDI and STI (R52, R84) -/

theorem fetchAddress_regs (E : Env) (s : State) : (s.fetchAddress E).2.regs = s.regs := memRead16_regs E s _

theorem add_one_add_one (a : Word) : a + 1 + 1 = a + 2 := BitVec.add_assoc a 1 1

/-- The two byte reads of the address (R52). -/
theorem AccessFrame.fetchAddress (E : Env) (s : State) :
    AccessFrame E [s.regs.pc + 1, s.regs.pc + 2] [] (s.fetchAddress E).2 s (s.fetchAddress E).2 := by
  rw [← add_one_add_one]
  exact .read16 E s (s.regs.pc + 1)

/-- Over plain memory the address is the two bytes that stand after `pc`, the first of them low, and no hook runs (R29). -/
theorem fetchAddress_plain (hlow : s.plainAt (s.regs.pc + 1) = true) (hhigh : s.plainAt (s.regs.pc + 2) = true) :
    s.fetchAddress E = (s.peek E (s.regs.pc + 2) ++ s.peek E (s.regs.pc + 1), s) := by
  rw [← add_one_add_one] at hhigh ⊢
  exact memRead16_plain E hlow hhigh

end Sys2Proof.Machine
end

section
/-! PROOFS. The statements of 42_load_store.md. -/

namespace Sys2Proof.Claims

open Sys2Proof Sys2Proof.Machine

/-- Settles O24: MOV is a `writeReg8` of the source's byte. -/
theorem movCopiesARegister : Obligations.MovCopiesARegister := by
  intro s rd rs
  have hread : (s.writeReg8 rd (s.readReg8 rs)).readReg8 rd =
      if rd = .f then s.readReg8 rs &&& 0xF0#8 else s.readReg8 rs := by
    rw [readReg8_writeReg8, if_pos rfl]
  exact ⟨_, rfl, hread, samePcSp_writeReg8 s rd _,
    registerOnly_respond (onlyRegs_writeReg8 s rd _) (.writeReg8 s rd _)⟩

/-- Settles O25: both commands are one load, LDP at the pair's value before it. -/
theorem ldpAndLdaLoadTheByteAtTheirAddress : Obligations.LdpAndLdaLoadTheByteAtTheirAddress :=
  ⟨fun s r p => loadReg8_completes rfl (.refl Config.env s) r (s.readPair p),
    fun s r a => loadReg8_completes rfl (.refl Config.env s) r a⟩

/-- Settles O26: both commands are one store, STP at the pair's value. -/
theorem stpAndStaStoreTheRegisterAtTheirAddress : Obligations.StpAndStaStoreTheRegisterAtTheirAddress :=
  ⟨fun s p r => storeReg8_completes rfl (.refl Config.env s) (s.readPair p) r,
    fun s a r => storeReg8_completes rfl (.refl Config.env s) a r⟩

/-- Settles O27: the load in the state that the two reads of the address leave, which is the state before over plain
memory. -/
theorem ldiLoadsThroughTheImmediateAfterPc : Obligations.LdiLoadsThroughTheImmediateAfterPc := by
  intro s r
  obtain ⟨t, hexec, hread, hpcsp, hregs, hframe, hresp, -⟩ := loadReg8_completes (fetchAddress_regs Config.env s)
    (.fetchAddress Config.env s) r (s.fetchAddress Config.env).1
  refine ⟨t, hexec, hread, hpcsp, hregs, hframe, hresp, fun hlow hhigh => ?_⟩
  rw [show lowThenHighRead Config.env s (s.regs.pc + 1) = _ from fetchAddress_plain hlow hhigh]
  exact ⟨rfl, fun haddr => by rw [memRead8_plain Config.env haddr]⟩

/-- Settles O28: the store in the state that the two reads of the address leave; these keep the register and which bytes are
plain. -/
theorem stiStoresThroughTheImmediateAfterPc : Obligations.StiStoresThroughTheImmediateAfterPc := by
  intro s r
  obtain ⟨t, hexec, hpeek, hpcsp, hregs, hframe, hresp⟩ := storeReg8_completes (fetchAddress_regs Config.env s)
    (.fetchAddress Config.env s) (s.fetchAddress Config.env).1 r
  exact ⟨t, hexec, hpcsp, hregs, hframe, hresp, hpeek,
    fun hlow hhigh => congrArg Prod.fst (fetchAddress_plain hlow hhigh)⟩

/-- Settles O29: the byte is still plain after the store, so the load reads the byte that stands there, the one stored. -/
theorem staThenLdaCopiesARegister : Obligations.StaThenLdaCopiesARegister := by
  intro s a r r2 ha
  obtain ⟨t, hsta, hpeek, -, -, hframe, -⟩ := storeReg8_completes rfl (.refl Config.env s) a r
  obtain ⟨u, hlda, hread, -⟩ := loadReg8_completes rfl (.refl Config.env t) r2 a
  have hplain : t.plainAt a = true := (plainAt_of_cfg hframe.control.cfg a).trans ha
  rw [memRead8_plain Config.env hplain, hpeek ha] at hread
  exact ⟨t, u, hsta, hlda, hread⟩

end Sys2Proof.Claims
end

section
/-! PROOFS. A command that steps a pair and answers `OK` (43_incdec16.md R190 to R193): its frame, and two steps that cancel. -/

namespace Sys2Proof.Machine

open Sys2Proof Sys2Proof.Claims

/-- No 16-bit register has F as a half (R22). -/
theorem f_notMem_halves (q : Reg16) : Reg8.f ∉ halves q := by
  cases q <;> decide

/-- A command that ends by writing a pair. -/
theorem writePair_completes (s : State) (p : Pair) (v : Word) : ∃ t, (s.writePair p v).done = .next t ∧
    t.readPair p = v ∧ SamePcSp s t ∧ RegisterOnly (halves (pairReg p)) s t := by
  have hread : ((s.writePair p v).respond .ok).readPair p = v := by
    rw [readPair_respond, readPair_writePair, if_pos rfl]
  exact ⟨_, rfl, hread, samePcSp_writePair s p v,
    registerOnly_respond (onlyRegs_writeReg16 s (pairReg p) v) (.writeReg16 s (pairReg p) v)⟩

/-- A step of a pair and then one that undoes it leave the pair, and F too, which neither writes. -/
theorem writePair_then_undo {step undo : Word → Word} (hundo : ∀ v, undo (step v) = v) (s : State) (p : Pair) :
    ∃ t u, (s.writePair p (step (s.readPair p))).done = .next t ∧ (t.writePair p (undo (t.readPair p))).done = .next u ∧
      u.readPair p = s.readPair p ∧ u.readReg8 .f = s.readReg8 .f := by
  obtain ⟨t, hstep, hreadt, -, honlyt, -⟩ := writePair_completes s p (step (s.readPair p))
  obtain ⟨u, hback, hreadu, -, honlyu, -⟩ := writePair_completes t p (undo (t.readPair p))
  have hpair : u.readPair p = s.readPair p := by rw [hreadu, hreadt, hundo]
  have hf : Reg8.f ∉ halves (pairReg p) := f_notMem_halves (pairReg p)
  exact ⟨t, u, hstep, hback, hpair, (honlyu .f hf).trans (honlyt .f hf)⟩

end Sys2Proof.Machine
end

section
/-! PROOFS. The statements of 43_incdec16.md. -/

namespace Sys2Proof.Claims

open Sys2Proof Sys2Proof.Machine

/-- Settles O30: each command is a write of its pair, and the sum and the difference of words are modulo 65536, one less
being 65535 more. -/
theorem inc16AndDec16CountModulo65536 : Obligations.Inc16AndDec16CountModulo65536 := by
  constructor
  · intro s p
    obtain ⟨t, hexec, hread, hframe⟩ := writePair_completes s p (s.readPair p + 1)
    exact ⟨t, hexec, by rw [hread]; exact BitVec.toNat_add _ 1, hframe⟩
  · intro s p
    obtain ⟨t, hexec, hread, hframe⟩ := writePair_completes s p (s.readPair p - 1)
    have hcount : (s.readPair p - 1).toNat = ((s.readPair p).toNat + 65535) % 65536 := by
      rw [BitVec.toNat_sub, Nat.add_comm]
      rfl
    exact ⟨t, hexec, by rw [hread, hcount], hframe⟩

/-- Settles O31: adding and subtracting one cancel on words, in either order. -/
theorem inc16AndDec16UndoEachOther : Obligations.Inc16AndDec16UndoEachOther := fun s p =>
  ⟨writePair_then_undo (step := (· + 1)) (undo := (· - 1)) (fun v => BitVec.add_sub_cancel v 1) s p,
    writePair_then_undo (step := (· - 1)) (undo := (· + 1)) (fun v => BitVec.sub_add_cancel v 1) s p⟩

end Sys2Proof.Claims
end

section
/-! PROOFS. A command that stores a word or loads a pair from one and then writes `sp` (44_stack.md R195, R196). -/

namespace Sys2Proof.Machine

open Sys2Proof Sys2Proof.Claims

variable {E : Env} {s : State}

/-! ### The store of a word (R195) -/

/-- PUSH stores the word from the state before and writes `sp` last: the store reaches nothing of the register file, so the
order does not matter. -/
theorem exec_push_eq (s : State) (p : Pair) : exec (.push p) s =
    ((s.memWrite16 Config.env (s.regs.sp - 2) (s.readPair p)).writeSp (s.regs.sp - 2)).done :=
  congrArg State.done (memWrite16_writeSp Config.env s _ _ _)

theorem onlyRegs_memWrite16_writeSp (a v x : Word) : OnlyRegs [] s ((s.memWrite16 E a v).writeSp x) := by
  intro r _
  rw [readReg8_writeSp, readReg8_of_regs (memWrite16_regs E s a v)]

/-- A command that stores a word and writes `sp` completes, with the word's halves in the two bytes when they are plain, no
other register changed, and the frame of its two stores. -/
theorem storeWord_completes (s : State) (a v x : Word) :
    ∃ t, ((s.memWrite16 E a v).writeSp x).done = .next t ∧
      t.regs.sp = x ∧ t.regs.pc = s.regs.pc ∧ OnlyRegs [] s t ∧
      AccessFrame E [] [a, a + 1] (s.memWrite16 E a v) s t ∧ t.resp = some .ok ∧
      (s.plainAt a = true → s.plainAt (a + 1) = true →
        t.peek E a = lowByte v ∧ t.peek E (a + 1) = highByte v) := by
  have hpc : ((s.memWrite16 E a v).writeSp x).regs.pc = s.regs.pc := by rw [writeSp_pc, memWrite16_regs]
  have hout : SameOutside (s.memWrite16 E a v) (((s.memWrite16 E a v).writeSp x).respond .ok) :=
    (SameOutside.writeSp _ x).trans (.respond _ .ok)
  refine ⟨_, rfl, rfl, hpc, onlyRegs_memWrite16_writeSp a v x, (AccessFrame.write16 E s a v).outside E hout, rfl,
    fun hlow hhigh => ⟨?_, ?_⟩⟩
  · rw [hout.peek, peek_memWrite16_low v hlow hhigh]
  · rw [hout.peek, peek_memWrite16_high v hlow hhigh]

/-! ### The load of a pair (R196) -/

theorem readPair_writeSp (s : State) (x : Word) (p : Pair) : (s.writeSp x).readPair p = s.readPair p := by
  simp only [readPair_eq_join, readReg8_writeSp]

theorem onlyRegs_memRead16_writePair_writeSp (a : Word) (p : Pair) (v x : Word) :
    OnlyRegs (halves (pairReg p)) s (((s.memRead16 E a).2.writePair p v).writeSp x) := by
  intro r hr
  rw [readReg8_writeSp, State.writePair, onlyRegs_writeReg16 _ (pairReg p) v r hr,
    readReg8_of_regs (memRead16_regs E s a)]

/-- A command that loads a pair from a word and writes `sp` completes, with the word read in the pair, which is the two bytes
that stand there when they are plain, and the frame of its two reads. -/
theorem loadPair_completes (s : State) (p : Pair) (a x : Word) :
    ∃ t, (((s.memRead16 E a).2.writePair p (s.memRead16 E a).1).writeSp x).done = .next t ∧
      t.readPair p = (s.memRead16 E a).1 ∧ t.regs.sp = x ∧ t.regs.pc = s.regs.pc ∧
      OnlyRegs (halves (pairReg p)) s t ∧ AccessFrame E [a, a + 1] [] (s.memRead16 E a).2 s t ∧
      t.resp = some .ok ∧
      (s.plainAt a = true → s.plainAt (a + 1) = true →
        (s.memRead16 E a).1 = joinBytes (s.peek E (a + 1)) (s.peek E a)) := by
  have hread (u : State) (v : Word) : (((u.writePair p v).writeSp x).respond .ok).readPair p = v := by
    rw [readPair_respond, readPair_writeSp, readPair_writePair, if_pos rfl]
  have hpc (v : Word) : (((s.memRead16 E a).2.writePair p v).writeSp x).regs.pc = s.regs.pc := by
    rw [writeSp_pc, (samePcSp_writePair _ p v).1, memRead16_regs]
  have hout (u : State) (v : Word) : SameOutside u (((u.writePair p v).writeSp x).respond .ok) :=
    ((SameOutside.writeReg16 u (pairReg p) v).trans (.writeSp _ x)).trans (.respond _ .ok)
  exact ⟨_, rfl, hread _ _, rfl, hpc _, onlyRegs_memRead16_writePair_writeSp a p _ x,
    (AccessFrame.read16 E s a).outside E (hout _ _), rfl,
    fun hlow hhigh => by rw [memRead16_plain E hlow hhigh]⟩

end Sys2Proof.Machine
end

section
/-! PROOFS. The statements of 44_stack.md. -/

namespace Sys2Proof.Claims

open Sys2Proof Sys2Proof.Machine

/-- Settles O32: PUSH is one word store at the new `sp`. -/
theorem pushStoresThePairBelowSp : Obligations.PushStoresThePairBelowSp := by
  intro s p
  rw [exec_push_eq]
  exact storeWord_completes s (s.regs.sp - 2) (s.readPair p) (s.regs.sp - 2)

/-- Settles O33: POP is one load of the pair from the word at the old `sp`. -/
theorem popLoadsThePairAtSp : Obligations.PopLoadsThePairAtSp :=
  fun s p => loadPair_completes s p s.regs.sp (s.regs.sp + 2)

/-- Settles O34: the two bytes are still plain after PUSH, so POP reads the halves that PUSH stored, and adding two to `sp`
undoes subtracting two. -/
theorem pushThenPopCopiesThePair : Obligations.PushThenPopCopiesThePair := by
  intro s p1 p2 hlow hhigh
  have hnext : s.regs.sp - 1 = s.regs.sp - 2 + 1 := by bv_omega
  rw [hnext] at hhigh
  obtain ⟨t, hpush, hspt, -, -, hframe, -, hstored⟩ := pushStoresThePairBelowSp s p1
  obtain ⟨u, hpop, hread, hspu, -, -, -, -, hword⟩ := popLoadsThePairAtSp t p2
  obtain ⟨hpeek, hpeek'⟩ := hstored hlow hhigh
  have hplain (b : Word) : t.plainAt b = s.plainAt b := plainAt_of_cfg hframe.control.cfg b
  rw [hspt, hplain, hplain, hpeek, hpeek'] at hword
  refine ⟨t, u, hpush, hpop, ?_, ?_⟩
  · rw [hread, hspt, hword hlow hhigh]
    exact joinBytes_halves (s.readPair p1)
  · rw [hspu, hspt, BitVec.sub_add_cancel]

end Sys2Proof.Claims
end

section
/-! PROOFS. A command that ends by answering, after accesses that leave the register file alone (45_memport.md R209). -/

namespace Sys2Proof.Machine

open Sys2Proof Sys2Proof.Claims

variable {E : Env} {reads writes : List Word} {s u : State}

theorem peek_respond (u : State) (v : Response) (a : Word) : (u.respond v).peek E a = u.peek E a :=
  (SameOutside.respond u v).peek E a

/-- The answer itself reaches no register and nothing outside the response. -/
theorem respond_keeps_registers_and_frame (hregs : u.regs = s.regs) (hframe : AccessFrame E reads writes u s u)
    (v : Response) :
    SamePcSp s (u.respond v) ∧ OnlyRegs [] s (u.respond v) ∧ AccessFrame E reads writes u s (u.respond v) :=
  ⟨samePcSp_of_regs hregs, onlyRegs_of_regs hregs, hframe.outside E (.respond u v)⟩

end Sys2Proof.Machine
end

section
/-! PROOFS. The statements of 45_memport.md. -/

namespace Sys2Proof.Claims

open Sys2Proof Sys2Proof.Machine

/-- Settles O38: each command answers what its reads gave, over plain memory the bytes that stand there. -/
theorem mrd8AndMrd16AnswerWhatTheyRead : Obligations.Mrd8AndMrd16AnswerWhatTheyRead := by
  constructor
  · intro s a
    obtain ⟨hpcsp, hregs, hframe⟩ := respond_keeps_registers_and_frame (memRead8_regs Config.env s a)
      (.read8 Config.env s a) (.byte (s.memRead8 Config.env a).1)
    exact ⟨_, rfl, rfl, hpcsp, hregs, hframe, fun ha => by rw [memRead8_plain Config.env ha]⟩
  · intro s a
    obtain ⟨hpcsp, hregs, hframe⟩ := respond_keeps_registers_and_frame (memRead16_regs Config.env s a)
      (.read16 Config.env s a) (.word (s.memRead16 Config.env a).1)
    exact ⟨_, rfl, rfl, hpcsp, hregs, hframe,
      fun hlow hhigh => congrArg Prod.fst (memRead16_plain Config.env hlow hhigh)⟩

/-- Settles O39: each command answers `OK` after its stores, and the answer leaves every byte as they put it. -/
theorem mwr8AndMwr16StoreTheirValue : Obligations.Mwr8AndMwr16StoreTheirValue := by
  constructor
  · intro s a v
    obtain ⟨hpcsp, hregs, hframe⟩ := respond_keeps_registers_and_frame (memWrite8_regs Config.env s a v)
      (.write8 Config.env s a v) .ok
    exact ⟨_, rfl, hpcsp, hregs, hframe, rfl, fun ha => (peek_respond _ _ a).trans (peek_memWrite8_plain v ha)⟩
  · intro s a v
    obtain ⟨hpcsp, hregs, hframe⟩ := respond_keeps_registers_and_frame (memWrite16_regs Config.env s a v)
      (.write16 Config.env s a v) .ok
    exact ⟨_, rfl, hpcsp, hregs, hframe, rfl,
      fun hlow hhigh => ⟨(peek_respond _ _ a).trans (peek_memWrite16_low v hlow hhigh),
        (peek_respond _ _ (a + 1)).trans (peek_memWrite16_high v hlow hhigh)⟩⟩

end Sys2Proof.Claims
end

section
/-! PROOFS. The hooks of all peripherals, run by index, are the chain of hooks over the list (46_io.md R221, R230, R233), and
what a command that runs them all leaves. -/

namespace Sys2Proof.Machine

open Sys2Proof Sys2Proof.Claims

variable {hook : PeripheralHooks → PState → Window → Ext → PState × Window} {s : State}

/-! ### The hooks in list order -/

/-- An index without a private state runs no hook (log 13). -/
theorem runHook_of_no_state (E : Env) {i : Nat} (hst : s.pstates.length ≤ i) : s.runHook E i hook = s := by
  have hnone : s.pstates[i]? = none := List.getElem?_eq_none hst
  unfold State.runHook
  rw [hnone]
  split
  · contradiction
  · rfl

theorem foldl_runHook_of_no_states (E : Env) (indices : List Nat) (hst : ∀ i ∈ indices, s.pstates.length ≤ i) :
    indices.foldl (fun t i => t.runHook E i hook) s = s := by
  induction indices with
  | nil => rfl
  | cons i rest ih =>
    obtain ⟨hi, hrest⟩ := List.forall_mem_cons.1 hst
    rw [List.foldl_cons, runHook_of_no_state E hi, ih hrest]

/-- The hooks of the peripherals after the `earlier` ones, whose states are `before`: those states stay, and the rest is the
chain. -/
theorem foldl_runHook_eq_hookChain (earlier ps : List PeripheralDecl) (before sts : List PState) (s : State)
    (hlen : earlier.length = before.length) (hps : s.cfg.peripherals = earlier ++ ps) (hsts : s.pstates = before ++ sts) :
    let t := (List.range' earlier.length ps.length).foldl (fun t i => t.runHook Config.env i hook) s
    let chain := hookChain hook ps sts s.win s.extSeq
    (t.pstates, t.win, t.extSeq) = (before ++ chain.1, chain.2) := by
  induction ps generalizing earlier before sts s with
  | nil => simp [hookChain, hsts]
  | cons p ps ih =>
    cases sts with
    | nil =>
      have hnone : ∀ i ∈ List.range' earlier.length (p :: ps).length, s.pstates.length ≤ i := by
        intro i hi
        have hindex := (List.mem_range'_1.1 hi).1
        simp only [hsts, List.append_nil]
        omega
      simp only [foldl_runHook_of_no_states Config.env _ hnone, hsts, hookChain]
    | cons st sts =>
      have hp : s.cfg.peripherals[earlier.length]? = some p := by simp [hps]
      have hst : s.pstates[earlier.length]? = some st := by simp [hsts, hlen]
      have hset (x : PState) : s.pstates.set earlier.length x = (before ++ [x]) ++ sts := by simp [hsts, hlen]
      have hrest := ih (earlier ++ [p])
        (before ++ [(hook (Config.hooks p.kind) st s.win (Config.extInput s.extSeq)).1]) sts
        (s.runHook Config.env earlier.length hook) (by simp [hlen]) (by simp [hps])
        (by rw [runHook_of_registered hook hp hst]; exact hset _)
      rw [List.length_append] at hrest
      simp only [List.length_cons, List.range'_succ, List.foldl_cons, hookChain]
      refine hrest.trans ?_
      rw [runHook_of_registered hook hp hst]
      simp [Config.env]

theorem forEachPeripheral_eq_hookChain (s : State) :
    ((s.forEachPeripheral Config.env hook).pstates, (s.forEachPeripheral Config.env hook).win,
        (s.forEachPeripheral Config.env hook).extSeq) =
      hookChain hook s.cfg.peripherals s.pstates s.win s.extSeq := by
  rw [State.forEachPeripheral, List.range_eq_range']
  exact foldl_runHook_eq_hookChain [] s.cfg.peripherals [] s.pstates s rfl rfl rfl

/-! ### The commands that run every peripheral's hook -/

/-- A command that sets the window and the accumulator, runs every hook, and answers `OK`. -/
theorem hookRun_of_forEachPeripheral (s : State) (w : Window) (acc : Nat) :
    HookRun hook w acc s
      ((({ s with win := w, acc := acc }).forEachPeripheral Config.env hook).respond .ok) := by
  refine ⟨forEachPeripheral_eq_hookChain { s with win := w, acc := acc }, ?_, ?_, ?_, ?_, ?_, ?_, ?_, rfl⟩ <;> simp

/-- The accumulator may also be set after the hooks, which do not look at it. -/
theorem hookRun_withAcc {w : Window} {acc : Nat} {t : State} (h : HookRun hook w acc s t) (acc' : Nat) :
    HookRun hook w acc' s { t with acc := acc' } := by
  obtain ⟨hchain, -, hrest⟩ := h
  exact ⟨hchain, rfl, hrest⟩

/-- The count fits and IOSYNC adds it, or it does not fit and IOSYNC raises (U6). -/
theorem exec_iosync_of_fits {n : Cycles} (hfits : s.accFits n = true) :
    exec (.iosync n) s = (s.ioSync Config.env n).done :=
  congrArg Host.Outcome.next (if_pos hfits)

theorem exec_iosync_of_overflow {n : Cycles} (hover : s.accFits n = false) :
    exec (.iosync n) s = .next (s.raiseViolation .accOverflow) :=
  congrArg Host.Outcome.next (if_neg (by simp [hover]))

theorem exec_iosync_hookRun {n : Cycles} (hfits : s.accFits n = true) : ∃ t, exec (.iosync n) s = .next t ∧
    HookRun (fun p st w x => p.tick st w n x) s.win (s.acc + n.toNat) s t :=
  ⟨_, exec_iosync_of_fits hfits, hookRun_of_forEachPeripheral s s.win (s.acc + n.toNat)⟩

/-- Only IOSYNC, IODRAIN and IORESET write `Acc` (R225). -/
theorem Update.acc_eq {i : Instr} {t : State} (hsync : ∀ n, i ≠ .iosync n) (hdrain : i ≠ .iodrain)
    (hreset : i ≠ .ioreset) (h : Update i s t) : t.acc = s.acc := by
  cases h with
  | ioSync n hi => exact absurd hi (hsync n)
  | ioDrain hi => exact absurd hi hdrain
  | ioReset hi => exact absurd hi hreset
  | writePc | writeSp => rfl
  | _ => simp

end Sys2Proof.Machine
end

section
/-! PROOFS. The commands of the coordinator at one address: in the window they are the memory port's, outside it they raise
(46_io.md R219, R220, R222, R223). -/

namespace Sys2Proof.Machine

open Sys2Proof Sys2Proof.Claims

variable {s : State} {a : Word} {o : Offset}

theorem inWindowDo_of_window (cmd : Offset → State) (ha : windowOffset? a = some o) :
    s.inWindowDo a cmd = .next (cmd o) := by
  simp only [State.inWindowDo, ha]

theorem inWindowDo_of_external (cmd : Offset → State) (ha : windowOffset? a = none) :
    s.inWindowDo a cmd = .next (s.raiseViolation .ioAddrRange) := by
  simp only [State.inWindowDo, ha]

theorem exec_iord_eq_mrd8 (ha : windowOffset? a = some o) : exec (.iord a) s = exec (.mrd8 a) s := by
  change execIord a s = execMrd8 a s
  rw [execIord, inWindowDo_of_window _ ha, execMrd8, memRead8_of_window ha]

theorem exec_iowr_eq_mwr8 (v : Byte) (ha : windowOffset? a = some o) : exec (.iowr a v) s = exec (.mwr8 a v) s := by
  change execIowr a v s = execMwr8 a v s
  rw [execIowr, inWindowDo_of_window _ ha, execMwr8, memWrite8_of_window v ha, State.done]

theorem exec_iodw_of_window (v : Byte) (ha : windowOffset? a = some o) :
    exec (.iodw a v) s = .next ((s.ioDirectWrite o v).respond .ok) :=
  inWindowDo_of_window _ ha

/-- A byte stored at an offset stands at its address, and every other byte is as before (R228). -/
theorem peek_ioDirectWrite (E : Env) (s : State) (v : Byte) (ha : windowOffset? a = some o) (b : Word) :
    (s.ioDirectWrite o v).peek E b = if b = a then v else s.peek E b := by
  cases hb : windowOffset? b with
  | none =>
    have hne : b ≠ a := fun e => by rw [e, ha] at hb; cases hb
    rw [if_neg hne]
    simp only [State.peek, hb, State.extRead, ioDirectWrite_cfg, ioDirectWrite_mem, ioDirectWrite_memState]
    cases s.cfg.extMem <;> rfl
  | some o' =>
    by_cases hba : b = a
    · subst hba
      cases ha.symm.trans hb
      simp [State.peek, ha]
    · have hne : (o : Nat) ≠ o' := fun e => hba (windowOffset?_inj hb (by rw [ha, Fin.ext e]))
      simp [State.peek, hb, hba, hne]

end Sys2Proof.Machine
end

section
/-! PROOFS. The construction of an instance: which claims the ownership table accepts, and what it holds then (46_io.md R237
to R239). -/

namespace Sys2Proof.Machine

open Sys2Proof

variable {i : Nat} {a : Word} {as bs : List Word} {ps : List PeripheralDecl} {t t' : Vector (Option Nat) 76}

/-- The absolute address of a window offset (R13). -/
def windowAddress (o : Offset) : Word := BitVec.ofNat 16 (0xFF00 + o.val)

theorem windowOffset?_eq_some_iff_windowAddress {o : Offset} : windowOffset? a = some o ↔ windowAddress o = a := by
  rw [windowOffset?_eq_some, windowAddress]
  bv_omega

/-! ### The two loops, step by step -/

theorem claimAll_cons_eq_ok_iff : claimAll i (a :: as) t = .ok t' ↔
    ∃ o, windowOffset? a = some o ∧ t[o] = none ∧ claimAll i as (t.set o (some i)) = .ok t' := by
  rw [claimAll]
  cases windowOffset? a with
  | none => simp
  | some o => cases ho : t[o] <;> simp_all

theorem registerAll_cons_eq_ok_iff {p : PeripheralDecl} : registerAll i (p :: ps) t = .ok t' ↔
    ∃ u, claimAll i p.claims t = .ok u ∧ registerAll (i + 1) ps u = .ok t' := by
  rw [registerAll]
  cases claimAll i p.claims t <;> simp

/-! ### What an accepted list leaves in the table -/

theorem set_free_eq_some_iff {o o' : Offset} {j : Nat} (hfree : t[o] = none) :
    (t.set o (some i))[o'] = some j ↔ t[o'] = some j ∨ j = i ∧ o' = o := by
  by_cases ho : o' = o
  · subst ho
    simp [hfree, eq_comm]
  · have hne : (o : Nat) ≠ o' := fun e => ho (Fin.ext e.symm)
    simp [hne, ho]

/-- The accepted claims of peripheral `i` are its own, and those accepted before stay. -/
theorem claimAll_owner_iff (h : claimAll i as t = .ok t') (o : Offset) (j : Nat) :
    t'[o] = some j ↔ t[o] = some j ∨ j = i ∧ windowAddress o ∈ as := by
  induction as generalizing t with
  | nil => cases h; simp
  | cons a as ih =>
    obtain ⟨oa, ha, hfree, hrest⟩ := claimAll_cons_eq_ok_iff.1 h
    have haddr : windowAddress o = a ↔ o = oa := by
      rw [← windowOffset?_eq_some_iff_windowAddress, ha, Option.some_inj, eq_comm]
    rw [ih hrest, set_free_eq_some_iff hfree, List.mem_cons, haddr, or_assoc, ← and_or_left]

theorem claimAll_free_iff (h : claimAll i as t = .ok t') (o : Offset) :
    t'[o] = none ↔ t[o] = none ∧ windowAddress o ∉ as := by
  simp only [Option.eq_none_iff_forall_ne_some, ne_eq, claimAll_owner_iff h, not_or, not_and, forall_and, forall_eq]

/-- The accepted claims of each peripheral of the list, which has the index of its place, are its own. -/
theorem registerAll_owner_iff (h : registerAll i ps t = .ok t') (o : Offset) (j : Nat) :
    t'[o] = some j ↔ t[o] = some j ∨ ∃ k p, j = i + k ∧ ps[k]? = some p ∧ windowAddress o ∈ p.claims := by
  induction ps generalizing i t with
  | nil => cases h; simp
  | cons p ps ih =>
    obtain ⟨u, hclaim, hrest⟩ := registerAll_cons_eq_ok_iff.1 h
    rw [ih hrest, claimAll_owner_iff hclaim, or_assoc]
    refine or_congr_right ⟨?_, ?_⟩
    · rintro (⟨rfl, hmem⟩ | ⟨k, q, rfl, hq, hmem⟩)
      · exact ⟨0, p, rfl, rfl, hmem⟩
      · exact ⟨k + 1, q, by omega, hq, hmem⟩
    · rintro ⟨_ | k, q, rfl, hq, hmem⟩
      · cases hq
        exact .inl ⟨rfl, hmem⟩
      · exact .inr ⟨k, q, by omega, hq, hmem⟩

/-! ### Which lists are accepted -/

/-- The claims that construction accepts over a table: of window addresses, none of them twice, and each of a byte that the
table has no owner for (R238, R239). -/
structure Claimable (t : Vector (Option Nat) 76) (as : List Word) : Prop where
  inWindow : ∀ a ∈ as, 0xFF00 ≤ a.toNat ∧ a.toNat ≤ 0xFF4B
  nodup : as.Nodup
  free : ∀ o, windowAddress o ∈ as → t[o] = none

theorem claimable_nil : Claimable t [] := ⟨by simp, List.nodup_nil, by simp⟩

theorem claimable_replicate_iff :
    Claimable (Vector.replicate 76 none) as ↔ (∀ a ∈ as, 0xFF00 ≤ a.toNat ∧ a.toNat ≤ 0xFF4B) ∧ as.Nodup :=
  ⟨fun h => ⟨h.inWindow, h.nodup⟩, fun ⟨hin, hnodup⟩ => ⟨hin, hnodup, fun o _ => by simp⟩⟩

theorem claimable_singleton {o : Offset} (ho : windowOffset? a = some o) (hfree : t[o] = none) : Claimable t [a] := by
  refine ⟨fun b hb => ?_, List.nodup_singleton a, fun o' ho' => ?_⟩
  · rw [List.mem_singleton.1 hb, windowOffset?_eq_some.1 ho]
    omega
  · have ho'a := windowOffset?_eq_some_iff_windowAddress.2 (List.mem_singleton.1 ho')
    rwa [Option.some.inj (ho'a.symm.trans ho)]

theorem Claimable.of_append_left (h : Claimable t (as ++ bs)) : Claimable t as where
  inWindow a ha := h.inWindow a (List.mem_append_left bs ha)
  nodup := h.nodup.of_append_left
  free o ho := h.free o (List.mem_append_left bs ho)

/-- The later claims are judged over the table in which the earlier ones have their owner. -/
theorem claimable_append_iff (ht' : ∀ o, t'[o] = none ↔ t[o] = none ∧ windowAddress o ∉ as) :
    Claimable t (as ++ bs) ↔ Claimable t as ∧ Claimable t' bs := by
  constructor
  · intro h
    obtain ⟨-, hnodupB, hdisjoint⟩ := List.nodup_append'.1 h.nodup
    refine ⟨h.of_append_left, fun a ha => h.inWindow a (List.mem_append_right as ha), hnodupB, fun o ho => ?_⟩
    exact (ht' o).2 ⟨h.free o (List.mem_append_right as ho), fun hA => hdisjoint hA ho⟩
  · rintro ⟨hA, hB⟩
    refine ⟨List.forall_mem_append.2 ⟨hA.inWindow, hB.inWindow⟩, List.nodup_append'.2 ⟨hA.nodup, hB.nodup, ?_⟩, ?_⟩
    · intro a haA haB
      obtain ⟨o, ho⟩ := windowOffset?_isSome (hA.inWindow a haA)
      rw [← windowOffset?_eq_some_iff_windowAddress.1 ho] at haA haB
      exact ((ht' o).1 (hB.free o haB)).2 haA
    · intro o ho
      exact (List.mem_append.1 ho).elim (hA.free o) fun hoB => ((ht' o).1 (hB.free o hoB)).1

/-- The claim of one free byte is the first step of `claimAll`. -/
theorem claimable_cons_iff {o : Offset} (i : Nat) (ho : windowOffset? a = some o) (hfree : t[o] = none) :
    Claimable t (a :: as) ↔ Claimable (t.set o (some i)) as := by
  have hclaim : claimAll i [a] t = .ok (t.set o (some i)) := claimAll_cons_eq_ok_iff.2 ⟨o, ho, hfree, rfl⟩
  have happend := claimable_append_iff (bs := as) (claimAll_free_iff hclaim)
  exact happend.trans (and_iff_right (claimable_singleton ho hfree))

theorem claimAll_accepts_iff : (∃ t', claimAll i as t = .ok t') ↔ Claimable t as := by
  induction as generalizing t with
  | nil => exact ⟨fun _ => claimable_nil, fun _ => ⟨t, rfl⟩⟩
  | cons a as ih =>
    constructor
    · rintro ⟨t', h⟩
      obtain ⟨o, ho, hfree, hrest⟩ := claimAll_cons_eq_ok_iff.1 h
      exact (claimable_cons_iff i ho hfree).2 (ih.1 ⟨t', hrest⟩)
    · intro h
      obtain ⟨o, ho⟩ := windowOffset?_isSome (h.inWindow a List.mem_cons_self)
      have hfree : t[o] = none :=
        h.free o (windowOffset?_eq_some_iff_windowAddress.1 ho ▸ List.mem_cons_self)
      obtain ⟨t', hrest⟩ := ih.2 ((claimable_cons_iff i ho hfree).1 h)
      exact ⟨t', claimAll_cons_eq_ok_iff.2 ⟨o, ho, hfree, hrest⟩⟩

theorem registerAll_accepts_iff : (∃ t', registerAll i ps t = .ok t') ↔ Claimable t (ps.flatMap (·.claims)) := by
  induction ps generalizing i t with
  | nil => exact ⟨fun _ => claimable_nil, fun _ => ⟨t, rfl⟩⟩
  | cons p ps ih =>
    rw [List.flatMap_cons]
    constructor
    · rintro ⟨t', h⟩
      obtain ⟨u, hclaim, hrest⟩ := registerAll_cons_eq_ok_iff.1 h
      exact (claimable_append_iff (claimAll_free_iff hclaim)).2 ⟨claimAll_accepts_iff.1 ⟨u, hclaim⟩, ih.1 ⟨t', hrest⟩⟩
    · intro h
      obtain ⟨u, hclaim⟩ := claimAll_accepts_iff.2 h.of_append_left
      obtain ⟨t', hrest⟩ := ih.2 ((claimable_append_iff (claimAll_free_iff hclaim)).1 h).2
      exact ⟨t', registerAll_cons_eq_ok_iff.2 ⟨u, hclaim, hrest⟩⟩

/-! ### The ownership table and the instance -/

theorem ownerTable_accepts_iff : (∃ t, ownerTable ps = .ok t) ↔
    (∀ p ∈ ps, ∀ a ∈ p.claims, 0xFF00 ≤ a.toNat ∧ a.toNat ≤ 0xFF4B) ∧ (ps.flatMap (·.claims)).Nodup := by
  rw [ownerTable, registerAll_accepts_iff, claimable_replicate_iff]
  simp only [List.mem_flatMap, forall_exists_index, and_imp]
  exact and_congr_left' ⟨fun h p hp a ha => h a p hp ha, fun h a p hp ha => h p hp a ha⟩

theorem ownerTable_owner_iff (h : ownerTable ps = .ok t) (o : Offset) (i : Nat) :
    t[o] = some i ↔ ∃ p, ps[i]? = some p ∧ windowAddress o ∈ p.claims := by
  rw [registerAll_owner_iff h]
  simp

variable {E : Env} {resetVector : Word} {mode : CarryMode} {accWidth : Option Nat} {extMem : ExtMem}
  {mem : Memory} {memState : ExtMemState}

/-- Construction fails exactly where the ownership table does (R257). -/
theorem construct_fails_iff :
    (∃ e, construct E resetVector mode accWidth extMem ps mem memState = .fault e) ↔
      ¬ ∃ t, ownerTable ps = .ok t := by
  unfold construct
  cases ownerTable ps <;> simp

/-- The instance before its reset (R283): what construction hands to the reset input. -/
def unresetInstance (resetVector : Word) (mode : CarryMode) (accWidth : Option Nat) (extMem : ExtMem)
    (ps : List PeripheralDecl) (owner : Vector (Option Nat) 76) (mem : Memory) (memState : ExtMemState) : State :=
  { State.reset with
    mem := mem
    memState := memState
    pstates := ps.map (·.init)
    cfg := { resetVector := resetVector, carryMode := mode, accWidth := accWidth, extMem := extMem,
             peripherals := ps, owner := owner } }

theorem construct_eq_next {s : State} (h : construct E resetVector mode accWidth extMem ps mem memState = .next s) :
    ∃ t, ownerTable ps = .ok t ∧
      s = (unresetInstance resetVector mode accWidth extMem ps t mem memState).assertRst E := by
  unfold construct at h
  cases ht : ownerTable ps with
  | error e => rw [ht] at h; cases h
  | ok t => rw [ht] at h; cases h; exact ⟨t, rfl, rfl⟩

theorem unresetInstance_inv (hmem : mem.wf) (ht : ownerTable ps = .ok t) :
    (unresetInstance resetVector mode accWidth extMem ps t mem memState).Inv where
  memCanonical := hmem
  flagsLowZero := Claims.resetMeetsTheInvariant.flagsLowZero
  onePerPeripheral := List.length_map _
  ownerBuilt := ht
  accInRange _ _ := Nat.zero_le _

end Sys2Proof.Machine
end

section
/-! PROOFS. The statements of 46_io.md. -/

namespace Sys2Proof.Claims

open Sys2Proof Sys2Proof.Machine

/-- Settles O40: IORESET runs the hooks from the zeroed window, and sets the accumulator last. -/
theorem ioresetZeroesThenRunsResetHooksInOrder : Obligations.IoresetZeroesThenRunsResetHooksInOrder := fun s =>
  ⟨_, rfl, hookRun_withAcc (hookRun_of_forEachPeripheral s (Vector.replicate 76 0#8) s.acc) 0⟩

/-- Settles O41: IOTICK runs the hooks from the window and the accumulator as they are. -/
theorem iotickRunsTickHooksInOrder : Obligations.IotickRunsTickHooksInOrder := fun s _ =>
  ⟨_, rfl, hookRun_of_forEachPeripheral s s.win s.acc⟩

/-- Settles O42: the three cases are those of whether the sum fits. -/
theorem iosyncAccumulatesAndTicks : Obligations.IosyncAccumulatesAndTicks := by
  refine ⟨fun s n hunbounded => ?_, fun s n w hw hfits => ?_, fun s n w hw hover => ?_⟩
  · exact exec_iosync_hookRun ((accFits_iff s n).2 (by simp [hunbounded]))
  · exact exec_iosync_hookRun ((accFits_iff s n).2 (by simpa [hw] using hfits))
  · have hnot : ¬ s.accFits n = true := fun h => Nat.not_le.2 hover ((accFits_iff s n).1 h w hw)
    exact exec_iosync_of_overflow (Bool.eq_false_of_not_eq_true hnot)

/-- Settles O43: both sides are the drained state with its response. -/
theorem iodrainAnswersAndClearsAcc : Obligations.IodrainAnswersAndClearsAcc := fun _ => rfl

/-- Settles O44: each IOSYNC adds its count and keeps the instance, so the accumulator is unbounded for the second too. -/
theorem twoSyncsThenDrainGiveTheSum : Obligations.TwoSyncsThenDrainGiveTheSum := by
  intro s c1 c2 hunbounded hzero
  obtain ⟨t, hsync1, -, hacct, -, -, -, -, hcfg, -⟩ := iosyncAccumulatesAndTicks.1 s c1 hunbounded
  obtain ⟨u, hsync2, -, haccu, -⟩ := iosyncAccumulatesAndTicks.1 t c2 (by rw [hcfg, hunbounded])
  have hsum : u.acc = c1.toNat + c2.toNat := by rw [haccu, hacct, hzero, Nat.zero_add]
  exact ⟨t, u, _, _, hsync1, hsync2, iodrainAnswersAndClearsAcc u, by rw [hsum], iodrainAnswersAndClearsAcc _, rfl⟩

/-- Settles O45: in the window IORD is MRD8. -/
theorem iordAnswersTheWindowByte : Obligations.IordAnswersTheWindowByte := by
  intro s a hlow hhigh
  obtain ⟨o, ho⟩ := windowOffset?_isSome ⟨hlow, hhigh⟩
  obtain ⟨t, hread, hrest⟩ := mrd8AndMrd16AnswerWhatTheyRead.1 s a
  exact ⟨t, (exec_iord_eq_mrd8 ho).trans hread, hread, hrest⟩

/-- Settles O46: in the window IOWR is MWR8, and IODW is the store of the byte alone. -/
theorem iowrAndIodwStoreTheWindowByte : Obligations.IowrAndIodwStoreTheWindowByte := by
  constructor
  · intro s a v hlow hhigh
    obtain ⟨o, ho⟩ := windowOffset?_isSome ⟨hlow, hhigh⟩
    obtain ⟨t, hwrite, hrest⟩ := mwr8AndMwr16StoreTheirValue.1 s a v
    exact ⟨t, (exec_iowr_eq_mwr8 v ho).trans hwrite, hwrite, hrest⟩
  · intro s a v hlow hhigh
    obtain ⟨o, ho⟩ := windowOffset?_isSome ⟨hlow, hhigh⟩
    have hpeek (b : Word) : ((s.ioDirectWrite o v).respond .ok).peek Config.env b =
        if b = a then v else s.peek Config.env b := by
      rw [peek_respond, peek_ioDirectWrite Config.env s v ho]
    exact ⟨_, exec_iodw_of_window v ho, ⟨rfl, rfl⟩, onlyRegs_of_regs rfl, ⟨rfl, rfl, rfl, rfl⟩, rfl, rfl, rfl, rfl, rfl,
      by rw [hpeek, if_pos rfl], fun b hb => by rw [hpeek, if_neg hb]⟩

/-- Settles O47: outside the window the three commands raise. -/
theorem ioCommandsOutsideTheWindowFault : Obligations.IoCommandsOutsideTheWindowFault := by
  intro s a v hout
  have ha := windowOffset?_eq_none.2 hout
  exact ⟨inWindowDo_of_external _ ha, inWindowDo_of_external _ ha, inWindowDo_of_external _ ha⟩

/-- Settles O48: both stores leave the byte standing and the instance as it was, so IORD reads a plain byte. -/
theorem unownedWindowByteRoundTrip : Obligations.UnownedWindowByteRoundTrip := by
  intro s a v hlow hhigh hplain
  have hread (t : State) (hcfg : t.cfg = s.cfg) (hpeek : t.peek Config.env a = v) :
      ∃ u, exec (.iord a) t = .next u ∧ u.resp = some (.byte v) := by
    obtain ⟨u, hexec, -, hresp, -, -, -, hbyte⟩ := iordAnswersTheWindowByte t a hlow hhigh
    rw [hbyte (by rw [plainAt_of_cfg hcfg, hplain]), hpeek] at hresp
    exact ⟨u, hexec, hresp⟩
  constructor
  · obtain ⟨t, hwrite, -, -, -, hframe, -, hpeek⟩ := iowrAndIodwStoreTheWindowByte.1 s a v hlow hhigh
    obtain ⟨u, hexec, hresp⟩ := hread t hframe.control.cfg (hpeek hplain)
    exact ⟨t, u, hwrite, hexec, hresp⟩
  · obtain ⟨t, hwrite, -, -, hcontrol, -, -, -, -, -, hpeek, -⟩ := iowrAndIodwStoreTheWindowByte.2 s a v hlow hhigh
    obtain ⟨u, hexec, hresp⟩ := hread t hcontrol.cfg hpeek
    exact ⟨t, u, hwrite, hexec, hresp⟩

/-- Settles O49: construction fails where the ownership table does, and the reset keeps the table and the list. -/
theorem ownershipFollowsTheClaims : Obligations.OwnershipFollowsTheClaims := by
  intro E rv m aw xm ps mem ms
  refine ⟨construct_fails_iff.trans (not_congr ownerTable_accepts_iff), fun s hnext => ?_⟩
  obtain ⟨owner, howner, rfl⟩ := construct_eq_next hnext
  rw [assertRst_cfg]
  exact ⟨rfl, ownerTable_owner_iff howner⟩

/-- Settles O50: the instance meets the invariant before its reset, and the reset keeps it. -/
theorem constructedInstancesMeetTheInvariant : Obligations.ConstructedInstancesMeetTheInvariant := by
  intro E rv m aw xm ps mem ms s hmem hnext
  obtain ⟨owner, howner, rfl⟩ := construct_eq_next hnext
  exact assertRst_inv E (unresetInstance_inv hmem howner)

/-- Settles O55: of the updates a command may make, only those of IOSYNC, IODRAIN and IORESET reach the accumulator. -/
theorem onlyCoordinatorCommandsChangeAcc : Obligations.OnlyCoordinatorCommandsChangeAcc :=
  fun _ _ _ hexec hsync hdrain hreset => exec_keeps_field (·.acc) (fun _ _ => Update.acc_eq hsync hdrain hreset) hexec

end Sys2Proof.Claims
end

section
/-! PROOFS. What the port does with a word at a stopped block and with a malformed word (60_exceptions.md R253, R254), that a
well-formed command leaves the latch alone and answers no fault (R250), and the reset registers (70_reset_and_hazards.md
R280). -/

namespace Sys2Proof.Machine

open Sys2Proof Sys2Proof.Claims

variable {s : State} {w : Command} {c : Violation}

/-! ### The words that are not executed -/

theorem issue_of_fault (hstopped : s.fault = some c) : issue w s = .next (s.refuseStopped c) := by
  simp only [issue, hstopped]

theorem issue_of_decode_error (hrun : s.fault = none) (hdec : decode w = .error c) :
    issue w s = .next (s.raiseViolation c) := by
  simp only [issue, hrun, hdec]

/-! ### The commands that are executed -/

/-- The outcome is a next state whose last update is a response that is no `FAULT`, and whose latch is that of `s` (R250). -/
def Completes (s : State) (o : Host.Outcome State Fault Refusal) : Prop :=
  ∃ (u : State) (v : Response), o = .next (u.respond v) ∧ u.fault = s.fault ∧ ∀ c, v ≠ .fault c

theorem completes_done {u : State} (hfault : u.fault = s.fault) : Completes s u.done := ⟨u, .ok, rfl, hfault, nofun⟩

/-- The window check passes, so the coordinator's command runs at the offset of its address (R223). -/
theorem inWindowDo_completes {a : Word} {cmd : Offset → State} (ha : inWindow a = true)
    (hcmd : ∀ o, Completes s (.next (cmd o))) : Completes s (s.inWindowDo a cmd) := by
  obtain ⟨o, ho⟩ := windowOffset?_isSome (inWindow_iff.1 ha)
  rw [inWindowDo_of_window cmd ho]
  exact hcmd o

theorem loadReg8_fault (E : Env) (s : State) (r : Reg8) (a : Word) : (s.loadReg8 E r a).fault = s.fault := by
  simp [State.loadReg8]

theorem storeReg8_fault (E : Env) (s : State) (a : Word) (r : Reg8) : (s.storeReg8 E a r).fault = s.fault :=
  memWrite8_fault E s a _

/-- Only the window check and a finite accumulator raise a violation: past them every command leaves the latch alone. -/
theorem exec_completes {i : Instr} (hwf : i.wellFormed = true) (hfits : ∀ n, i = .iosync n → s.accFits n = true) :
    Completes s (exec i s) := by
  cases i with
  | rd8 | rd16 | tstf => exact ⟨s, _, rfl, rfl, nofun⟩
  | wr8 r imm => exact completes_done (writeReg8_fault s r imm)
  | wr16 q imm => exact completes_done (writeReg16_fault s q imm)
  | setf f | clrf f => exact completes_done (writeFlag_fault s f _)
  | add | adc | sub | sbc | and | or | xor | addr | adcr | subr | sbcr | andr | orr | xorr =>
    exact completes_done (writeAlu_fault s _)
  | addm p | adcm p | subm p | sbcm p | andm p | orm p | xorm p =>
    exact completes_done (memRead8_fault Config.env s (s.readPair p))
  | mov rd rs => exact completes_done (writeReg8_fault s rd _)
  | ldp r | lda r => exact completes_done (loadReg8_fault Config.env s r _)
  | stp p r | sta a16 r => exact completes_done (storeReg8_fault Config.env s _ r)
  | ldi r => exact completes_done ((loadReg8_fault Config.env _ r _).trans (memRead16_fault Config.env s _))
  | sti r => exact completes_done ((storeReg8_fault Config.env _ _ r).trans (memRead16_fault Config.env s _))
  | ld16 p | inc16 p | dec16 p => exact completes_done (writePair_fault s p _)
  | push p => exact completes_done (memWrite16_fault Config.env (s.writeSp _) _ _)
  | pop p => exact completes_done ((writePair_fault _ p _).trans (memRead16_fault Config.env s _))
  | mrd8 a16 => exact ⟨_, _, rfl, memRead8_fault Config.env s a16, nofun⟩
  | mwr8 a16 imm => exact completes_done (memWrite8_fault Config.env s a16 imm)
  | mrd16 a16 => exact ⟨_, _, rfl, memRead16_fault Config.env s a16, nofun⟩
  | mwr16 a16 imm => exact completes_done (memWrite16_fault Config.env s a16 imm)
  | ioreset => exact completes_done (ioReset_fault Config.env s)
  | iotick cyc => exact completes_done (ioTick_fault Config.env s cyc)
  | iosync cyc =>
    rw [exec_iosync_of_fits (hfits cyc rfl)]
    exact completes_done (ioSync_fault Config.env s cyc)
  | iodrain => exact ⟨_, _, rfl, ioDrain_fault s, nofun⟩
  | iord a16 => exact inWindowDo_completes hwf fun o => ⟨_, _, rfl, ioRead_fault Config.env s a16 o, nofun⟩
  | iowr a16 imm => exact inWindowDo_completes hwf fun o => completes_done (ioWrite_fault Config.env s a16 o imm)
  | iodw a16 imm => exact inWindowDo_completes hwf fun o => completes_done (ioDirectWrite_fault s o imm)

/-! ### The reset input -/

theorem readReg8_resetRegisters (s : State) (r : Reg8) : s.resetRegisters.readReg8 r = 0#8 := by
  cases r with
  | f => exact BitVec.zero_and
  | a | b | c | d | e | h | l => rfl

end Sys2Proof.Machine
end

section
/-! PROOFS. The statements of 60_exceptions.md and of 70_reset_and_hazards.md. -/

namespace Sys2Proof.Claims

open Sys2Proof Sys2Proof.Machine

/-- Settles O57: the command completes with the latch as it was, which a running block has clear. -/
theorem wellFormedCommandsRaiseNothing : Obligations.WellFormedCommandsRaiseNothing := by
  intro i s hrun hwf hfits
  obtain ⟨u, v, hexec, hfault, hv⟩ := exec_completes hwf hfits
  exact ⟨u.respond v, hexec, hfault.trans hrun, fun c hresp => hv c (Option.some.inj hresp)⟩

/-- Settles O4: the step puts the word at the block, which raises its code. -/
theorem malformedWordLatchesItsCodeOnly : Obligations.MalformedWordLatchesItsCodeOnly := by
  intro s w rest c hinbox hrun hdec
  exact (step_of_inbox_cmd hinbox).trans (issue_of_decode_error (s := { s with inbox := rest }) hrun hdec)

/-- Settles O5: the step puts the word at the block, which refuses it. -/
theorem stoppedBlockRefusesEveryWord : Obligations.StoppedBlockRefusesEveryWord := by
  intro s w rest c hinbox hstopped
  exact (step_of_inbox_cmd hinbox).trans (issue_of_fault (s := { s with inbox := rest }) hstopped)

/-- Settles O6: of the inputs a stopped block may take, `rst` clears the latch and every word is refused. -/
theorem onlyRstClearsTheLatch : Obligations.OnlyRstClearsTheLatch := by
  intro s t c hstopped hstep
  match hinbox : s.inbox with
  | [] =>
    cases (step_of_inbox_nil hinbox).symm.trans hstep
    exact .inr ⟨hstopped, rfl, rfl, rfl, rfl, rfl, rfl⟩
  | .rst :: rest =>
    cases (step_of_inbox_rst hinbox).symm.trans hstep
    exact .inl ⟨rfl, rest, rfl⟩
  | .cmd w :: rest =>
    cases (stoppedBlockRefusesEveryWord s w rest c hinbox hstopped).symm.trans hstep
    exact .inr ⟨hstopped, rfl, rfl, rfl, rfl, rfl, rfl⟩

/-- Settles O2: the coordinator is reset as IORESET does it, from the reset registers, and the latch is cleared last. -/
theorem rstInputResetsTheBlock : Obligations.RstInputResetsTheBlock := by
  intro s rest hinbox
  obtain ⟨t, hioreset, hchain, hacc, hregs, hmem, hmemState, -, hcfg, hrest, -⟩ :=
    ioresetZeroesThenRunsResetHooksInOrder { s with inbox := rest }.resetRegisters
  cases hioreset
  exact ⟨_, step_of_inbox_rst hinbox, fun r => (readReg8_of_regs hregs r).trans (readReg8_resetRegisters _ r),
    congrArg (·.sp) hregs, congrArg (·.pc) hregs, hchain, hacc, rfl, hmem, hmemState, hcfg, hrest⟩

end Sys2Proof.Claims
end
